-- ==== Sys2Proof/Word.lean ====
section
/-!
DEFINITION. The words of the block: bytes, chip register addresses, and the level of a pin (spec 00_scope.md R11).
-/

namespace Sys2Proof

/-- An unsigned 8-bit value (R11). -/
abbrev Byte := BitVec 8

/-- A byte used as a chip register address (R11, R40). -/
abbrev Addr := Byte

/-- The level of a one-bit pin (R23, R31): `low` is 0, `high` is 1. -/
inductive Level where
  | low
  | high
  deriving DecidableEq, Repr, Inhabited

end Sys2Proof
end

