-- ==== Sys2Proof/Config.lean ====
section
/-!
DEFINITION. The configuration record `Cfg` with its well-formedness (spec 00_scope.md R7 to R10), and the two free
values of the environment. The numbers that fill the record stand in Machine/Defaults.lean.
-/

namespace Sys2Proof

/-- The name of a bit rate: an opaque key, compared only for equality (R69). `kbps125` is the one name the source
gives, "125KBPS"; every other name a host may write is some `other n` (assumption 6). -/
inductive RateName where
  | kbps125
  | other (n : Nat)
  deriving DecidableEq, Repr, Inhabited

/-- The three configuration register values (CNF1, CNF2, CNF3) of one bit rate (R30, R37). -/
structure Triple where
  c1 : Byte
  c2 : Byte
  c3 : Byte
  deriving DecidableEq, Repr, Inhabited

/-- What one byte slot `Xfer(o)` reports: the byte sampled on MISO, or that the transfer failed (R12, R87). -/
inductive Reply where
  | ok (b : Byte)
  | fail
  deriving DecidableEq, Repr, Inhabited

/-- Who moves next. `run`: the normal context takes one step (R158); `sample l`: the interrupt agent samples the
interrupt pin at level `l` (R31, R71); `reset`: the block is reset (R170). -/
inductive Move where
  | run
  | sample (l : Level)
  | reset
  deriving DecidableEq, Repr, Inhabited

/-- The OPEN fields of the configuration (R9): no source gives a value. -/
structure OpenFields where
  /-- BitRateProfile: one triple for each supported rate name (R37). -/
  rateTable : List (RateName × Triple)
  /-- The mailbox, filter and mask writes of INIT step 3, in order (R100). -/
  initSetup : List (Addr × Byte)
  /-- The configured default of the receive identifier registers, written back by RECV (R134). -/
  rxSidhDef : Byte
  rxSidlDef : Byte
  /-- The byte written to `A_CTRL` to request normal operating mode (R102). -/
  modeReq : Byte
  deriving DecidableEq, Repr

/-- The configuration record: the DEFAULT fields of R8 and the OPEN fields of R9. The SETTLED fields of R7 have one
value and are constants (Machine/Defaults.lean). -/
structure Cfg where
  aFiltH : Addr
  aFiltL : Addr
  aMaskH : Addr
  aMaskL : Addr
  aStat : Addr
  aCtrl : Addr
  aCnf3 : Addr
  aCnf2 : Addr
  aCnf1 : Addr
  aInte : Addr
  aIntf : Addr
  aTxctrl : Addr
  aTxsidh : Addr
  aTxsidl : Addr
  aTxeid8 : Addr
  aTxeid0 : Addr
  aTxdlc : Addr
  aTxd0 : Addr
  aRxctrl : Addr
  aRxsidh : Addr
  aRxsidl : Addr
  aRxeid8 : Addr
  aRxeid0 : Addr
  aRxdlc : Addr
  aRxd0 : Addr
  /-- Mask of the transmit-request bit of the transmit control register. -/
  txreq : Byte
  /-- Byte driven on MOSI during the receive slot of an RD frame. -/
  fill : Byte
  /-- `IS_NORMAL`: the status byte shows that the chip is in normal mode. -/
  isNormal : Byte → Bool
  /-- The OPEN fields. -/
  openF : OpenFields

/-- The lookup of a rate name in the BitRateProfile: its triple, or absent (R37, R98). -/
def Cfg.lookup (c : Cfg) (r : RateName) : Option Triple :=
  c.openF.rateTable.lookup r

/-- The last value a list of register writes puts at address `a` (R10 W7). -/
def lastWrite (a : Addr) : List (Addr × Byte) → Option Byte
  | [] => none
  | w :: ws =>
    match lastWrite a ws with
    | some v => some v
    | none => if w.1 = a then some w.2 else none

/-- The six sets of chip register addresses the source fixes (R7, R49). -/
structure AddressSets where
  sBt : List Addr
  sTx : List Addr
  sRx : List Addr
  sFm : List Addr
  sInt : List Addr
  sMode : List Addr

/-- The data registers of a mailbox whose first data register is at `a`: the eight addresses from `a` on (R67). -/
def dataAddrs (a : Addr) : List Addr :=
  (List.range 8).map fun i => a + BitVec.ofNat 8 i

/-- The transmit mailbox registers other than the data registers. -/
def Cfg.txNamed (c : Cfg) : List Addr :=
  [c.aTxctrl, c.aTxsidh, c.aTxsidl, c.aTxeid8, c.aTxeid0, c.aTxdlc]

/-- The receive mailbox registers other than the data registers. -/
def Cfg.rxNamed (c : Cfg) : List Addr :=
  [c.aRxctrl, c.aRxsidh, c.aRxsidl, c.aRxeid8, c.aRxeid0, c.aRxdlc]

/-- Every chip register address the block can put on the bus: the register table of R33. -/
def Cfg.addresses (c : Cfg) : List Addr :=
  [c.aFiltH, c.aFiltL, c.aStat, c.aCtrl, c.aMaskH, c.aMaskL, c.aCnf3, c.aCnf2, c.aCnf1, c.aInte, c.aIntf] ++
    c.txNamed ++ dataAddrs c.aTxd0 ++ c.rxNamed ++ dataAddrs c.aRxd0

/-- W1: each DEFAULT address lies in its SETTLED set. -/
def Cfg.w1 (c : Cfg) (z : AddressSets) : Bool :=
  [c.aCnf1, c.aCnf2, c.aCnf3].all z.sBt.contains && [c.aInte, c.aIntf].all z.sInt.contains &&
    [c.aCtrl, c.aStat].all z.sMode.contains && [c.aFiltH, c.aFiltL, c.aMaskH, c.aMaskL].all z.sFm.contains &&
    (c.aTxd0 :: c.txNamed).all z.sTx.contains && (c.aRxd0 :: c.rxNamed).all z.sRx.contains

/-- W2, W3, W4: all named addresses are pairwise distinct, and so are the data registers from them and from each
other, within the two mailbox ranges. -/
def Cfg.w234 (c : Cfg) : Bool :=
  decide c.addresses.Nodup && decide (c.aTxd0.toNat + 7 ≤ 0x3D) && decide (c.aRxd0.toNat + 7 ≤ 0x6D)

/-- W5: the table has exactly `nRates` keys, each once, and "125KBPS" is one. -/
def Cfg.w5 (c : Cfg) (nRates : Nat) : Bool :=
  let keys := c.openF.rateTable.map Prod.fst
  keys.length == nRates && decide keys.Nodup && keys.contains .kbps125

/-- W6: `INIT_SETUP` stays inside the mailbox, filter and mask registers, has an entry of each of the four kinds, and
starts no transmission. -/
def Cfg.w6 (c : Cfg) (z : AddressSets) : Bool :=
  let l := c.openF.initSetup
  l.all (fun w => (z.sTx ++ z.sRx ++ z.sFm).contains w.1) && l.any (fun w => z.sTx.contains w.1) &&
    l.any (fun w => z.sRx.contains w.1) && l.any (fun w => [c.aFiltH, c.aFiltL].contains w.1) &&
    l.any (fun w => [c.aMaskH, c.aMaskL].contains w.1) &&
    l.all (fun w => !(w.1 == c.aTxctrl && (w.2 &&& c.txreq) != 0))

/-- W7: the receive identifier defaults are the last values `INIT_SETUP` writes there. -/
def Cfg.w7 (c : Cfg) : Bool :=
  lastWrite c.aRxsidh c.openF.initSetup == some c.openF.rxSidhDef &&
    lastWrite c.aRxsidl c.openF.initSetup == some c.openF.rxSidlDef

/-- W8: `TXREQ` has exactly one bit set and the receive-full mask is 0x01. -/
def Cfg.w8 (c : Cfg) (rx0if : Byte) : Bool :=
  ((List.range 8).countP fun i => c.txreq.getLsbD i) == 1 && rx0if == 0x01

/-- The byte a slot returns when the reply list of the state is used up: one free draw per slot (R51, 93 U6). -/
opaque Config.freeReply : Nat → Reply

/-- Who moves next when the move list of the state is used up: a free draw, so that a falling edge can come at any
time (R152, 92 D25, D29). -/
opaque Config.freeMove : Nat → Move

end Sys2Proof
end

