-- ==== Sys2Proof/Machine/Defaults.lean ====
section
/-!
DEFINITION. The values of the configuration: the SETTLED constants of spec 00_scope.md R7, the DEFAULT fields of R8
(`CFG_DEF`, with `CFG_POS` of 92_eei_decisions.md beside it), and the OPEN fields of R9 as a constant without a value.
-/

namespace Sys2Proof.Config

/-- First byte of an RST frame (R7). -/
def opReset : Byte := 0xC0
/-- First byte of an RD frame (R7). -/
def opRead : Byte := 0x03
/-- First byte of a WR frame (R7). -/
def opWrite : Byte := 0x02
/-- Mask of "receive buffer 0 full" in the interrupt-flag register (R7). -/
def rx0if : Byte := 0x01
/-- Byte that enables only "receive buffer 0 full" (R7). -/
def rx0ieVal : Byte := 0x01
/-- Byte that clears the interrupt-flag register (R7). -/
def intfClear : Byte := 0x00
/-- Most reads of the transmit-control register in one SEND (R7). -/
def nPoll : Nat := 50
/-- Nominal wait after a busy poll, milliseconds (R7). -/
def tPollMs : Nat := 1
/-- Nominal wait after RST in INIT, milliseconds (R7). -/
def tSettleMs : Nat := 100
/-- Largest payload (R7). -/
def maxLen : Nat := 8
/-- Number of keys of the rate table (R7). -/
def nRates : Nat := 10

/-- The address sets of R7. -/
def sets : AddressSets where
  sBt := [0x28, 0x29, 0x2A]
  sTx := [0x30, 0x31, 0x32, 0x33, 0x34, 0x35, 0x36, 0x37, 0x38, 0x39, 0x3A, 0x3B, 0x3C, 0x3D]
  sRx := [0x60, 0x61, 0x62, 0x63, 0x64, 0x65, 0x66, 0x67, 0x68, 0x69, 0x6A, 0x6B, 0x6C, 0x6D]
  sFm := [0x00, 0x01, 0x20, 0x21]
  sInt := [0x2B, 0x2C]
  sMode := [0x0F, 0x0E]

/-- A configuration is well formed when W1 to W8 of R10 hold. -/
def wf (c : Cfg) : Bool :=
  c.w1 sets && c.w234 && c.w5 nRates && c.w6 sets && c.w7 && c.w8 rx0if

/-- `CFG_DEF`: every DEFAULT field at the value of R8 (assumption 1), over given OPEN fields. -/
def cfgDef (o : OpenFields) : Cfg where
  aFiltH := 0x00
  aFiltL := 0x01
  aMaskH := 0x20
  aMaskL := 0x21
  aStat := 0x0E
  aCtrl := 0x0F
  aCnf3 := 0x28
  aCnf2 := 0x29
  aCnf1 := 0x2A
  aInte := 0x2B
  aIntf := 0x2C
  aTxctrl := 0x30
  aTxsidh := 0x31
  aTxsidl := 0x32
  aTxeid8 := 0x33
  aTxeid0 := 0x34
  aTxdlc := 0x35
  aTxd0 := 0x36
  aRxctrl := 0x60
  aRxsidh := 0x61
  aRxsidl := 0x62
  aRxeid8 := 0x63
  aRxeid0 := 0x64
  aRxdlc := 0x65
  aRxd0 := 0x66
  txreq := 0x08
  fill := 0x00
  isNormal := fun s => (s &&& 0xE0) == 0x00
  openF := o

/-- `CFG_POS`: the left-to-right reading of the source's address lists (92_eei_decisions.md, D9, D10). -/
def cfgPos (o : OpenFields) : Cfg :=
  { cfgDef o with aIntf := 0x2B, aInte := 0x2C, aCnf1 := 0x28, aCnf2 := 0x29, aCnf3 := 0x2A }

/-- The OPEN fields of the synthetic `CFG_T` (95_test_vectors.md 1.3): invented for testing, not the hardware's. They
show that well-formed OPEN fields exist; the machine does not use them. -/
def openT : OpenFields where
  rateTable :=
    [(.kbps125, ⟨0xC1, 0xC2, 0xC3⟩), (.other 1, ⟨0xD1, 0xE1, 0xF1⟩), (.other 2, ⟨0xD2, 0xE2, 0xF2⟩),
      (.other 3, ⟨0xD3, 0xE3, 0xF3⟩), (.other 4, ⟨0xD4, 0xE4, 0xF4⟩), (.other 5, ⟨0xD5, 0xE5, 0xF5⟩),
      (.other 6, ⟨0xD6, 0xE6, 0xF6⟩), (.other 7, ⟨0xD7, 0xE7, 0xF7⟩), (.other 8, ⟨0xD8, 0xE8, 0xF8⟩),
      (.other 9, ⟨0xD9, 0xE9, 0xF9⟩)]
  initSetup :=
    [(0x31, 0xA1), (0x32, 0xA0), (0x35, 0xA8), (0x61, 0xB1), (0x62, 0xB0), (0x60, 0xB6), (0x00, 0xF1), (0x01, 0xF0),
      (0x20, 0xFF), (0x21, 0xE0)]
  rxSidhDef := 0xB1
  rxSidlDef := 0xB0
  modeReq := 0x00

/-- OPEN fields that make `CFG_DEF` well formed: what every rule of the spec assumes (R10). -/
abbrev WfOpen := { o : OpenFields // wf (cfgDef o) = true }

/-- The synthetic OPEN fields are well formed. -/
def openTWf : WfOpen := ⟨openT, by decide⟩

/-- The OPEN fields of the machine: some well-formed ones, nothing else is known of them (R9, R10, 93 U18). -/
opaque openFields [Inhabited WfOpen] : WfOpen

/-- The configuration of the machine: `CFG_DEF` over the OPEN fields. -/
def cfg : Cfg := cfgDef (@openFields ⟨openTWf⟩).val

end Sys2Proof.Config
end

