-- ==== Sys2Proof/Machine/Flags.lean ====
section
/-!
DEFINITION. The three tests on bytes that RD returned (spec 30_encoding.md R68). The block computes no other flag.
-/

namespace Sys2Proof.Machine

/-- `Busy`: the transmit-request bit of the transmit-control byte is set. -/
def busy (c : Cfg) (b : Byte) : Bool := (b &&& c.txreq) != 0

/-- `RxFull`: the "receive buffer 0 full" bit of the interrupt-flag byte is set; every other bit is ignored. -/
def rxFull (b : Byte) : Bool := (b &&& Config.rx0if) != 0

/-- `IS_NORMAL`: the status byte shows normal mode. -/
def inNormalMode (c : Cfg) (b : Byte) : Bool := c.isNormal b

end Sys2Proof.Machine
end

