-- ==== Sys2Proof/Syntax.lean ====
section
/-!
DEFINITION. The seven operations of the block (spec 00_scope.md R3), the command port, and the three forms in which an
operation is encoded (30_encoding.md R60, R69, R71).
-/

namespace Sys2Proof

/-- Eight payload bytes, indexed 0 to 7: `cmd_data`, `TXBUF`, `RXBUF` (R20, R69). -/
structure Buf where
  b0 : Byte
  b1 : Byte
  b2 : Byte
  b3 : Byte
  b4 : Byte
  b5 : Byte
  b6 : Byte
  b7 : Byte
  deriving DecidableEq, Repr, Inhabited

/-- One constructor for each row of the opcode table. -/
inductive Instr where
  /-- RST, the transport's reset transaction (R81). -/
  | rst
  /-- RD a, the transport's single-byte read of chip register `a` (R82). -/
  | rd (a : Addr)
  /-- WR a, v, the transport's single-byte write (R83). -/
  | wr (a : Addr) (v : Byte)
  /-- INIT "name" (R95). -/
  | init (rate : RateName)
  /-- SEND id, payload: the payload is the first `len` bytes of `data` (R110). -/
  | send (id : BitVec 11) (len : BitVec 4) (data : Buf)
  /-- RECV id (R125). -/
  | recv (id : BitVec 11)
  /-- IRQ, the falling edge of the interrupt pin (R137). -/
  | irq
  deriving DecidableEq, Repr

/-- The fields of the host's command port, format F-CMD (R69). -/
structure CmdPort where
  op : BitVec 2
  rate : RateName
  id : BitVec 11
  len : BitVec 4
  data : Buf
  deriving DecidableEq, Repr, Inhabited

/-- What the block can be asked to run, as it is encoded: the byte slots of an SPI frame (R60), a command on the host's
port (R69), or two successive samples of the interrupt pin (R71). -/
inductive Encoded where
  | frame (slots : List Byte)
  | command (p : CmdPort)
  | edge (previous current : Level)
  deriving DecidableEq, Repr

/-- Why an encoding selects no operation. -/
inductive DecodeError where
  /-- A frame without a byte slot. -/
  | emptyFrame
  /-- The first byte of a frame is none of 0xC0, 0x03, 0x02 (R72 (a)). -/
  | unknownOpcode (b : Byte)
  /-- The frame does not have the length its first byte gives (R64). -/
  | wrongLength (b : Byte) (n : Nat)
  /-- `cmd_op` = 0b11 (R72 (b)). -/
  | reservedCommand
  /-- The two samples are no falling edge (R71). -/
  | noFallingEdge
  deriving DecidableEq, Repr

end Sys2Proof
end

