-- ==== Sys2Proof/Machine/State.lean ====
section
/-!
DEFINITION. The state of the block: the registers of spec 10_state.md R20 and the model's own fields (the trace, and
the inputs of the environment), the reset state (R36, 70_reset_and_hazards.md R170, R171), and the reasons a step can
stop.
-/

namespace Sys2Proof.Machine

/-- The controller state `PHASE` (R21). -/
inductive Phase where
  | uninitialized
  | configuring
  | normal
  deriving DecidableEq, Repr

/-- The labels I0 to I12 of INIT (41_initialize.md R104); `i6 j` is I6(j). -/
inductive InitLabel where
  | i0 | i1 | i2 | i3 | i4 | i5
  | i6 (j : Nat)
  | i7 | i8 | i9 | i10 | i11 | i12
  deriving DecidableEq, Repr

/-- The labels S0 to S11 of SEND (42_send.md R118). -/
inductive SendLabel where
  | s0 | s1 | s2 | s3 | s4 | s5 | s6 | s7 | s8 | s9 | s10 | s11
  deriving DecidableEq, Repr

/-- The labels V0 to V12 of RECV (43_recv_interrupt.md R136). -/
inductive RecvLabel where
  | v0 | v1 | v2 | v3 | v4 | v5 | v6 | v7 | v8 | v9 | v10 | v11 | v12
  deriving DecidableEq, Repr

/-- The sequencer's program counter `(OP, STEP)` (R24): which operation runs and at which micro-step. When `OP` is
Idle there is no `STEP`. -/
inductive Pc where
  | idle
  | init (l : InitLabel)
  | send (l : SendLabel)
  | recv (l : RecvLabel)
  deriving DecidableEq, Repr

/-- The register `OP` (R20). -/
inductive Op where
  | idle
  | init
  | send
  | recv
  deriving DecidableEq, Repr

/-- One transport transaction with its operands (40_transport.md R81 to R83). -/
inductive Transaction where
  | rst
  | rd (a : Addr)
  | wr (a : Addr) (v : Byte)
  deriving DecidableEq, Repr

/-- The transport: `TP` of R25 together with the transaction it is about (assumption 11). `idle`: T_IDLE, no
transaction. `slot t k`: T_SLOT(k) of the open frame of `t`. `desel t`: T_DESEL. `closed t`: T_IDLE again after F5,
step F6 of `t` is next. -/
inductive Xport where
  | idle
  | slot (t : Transaction) (k : Nat)
  | desel (t : Transaction)
  | closed (t : Transaction)
  deriving DecidableEq, Repr

/-- The register `TP` (R20, R25). -/
inductive Tp where
  | idle
  | slot (k : Nat)
  | desel
  deriving DecidableEq, Repr

/-- A command accepted from the host, as the event `CMD(c)` shows it: only the payload bytes that are read (R13, R69). -/
inductive Command where
  | init (rate : RateName)
  | send (id : BitVec 11) (payload : List Byte)
  | recv (id : BitVec 11)
  deriving DecidableEq, Repr

/-- A response to the host (30_encoding.md R70). `frame id len bytes`: the echoed identifier, `rsp_len`, and the
payload bytes below `rsp_len`. -/
inductive Response where
  | ok
  | noData
  | frame (id : BitVec 11) (len : BitVec 4) (bytes : List Byte)
  | eTransport
  | eUnknownRate
  deriving DecidableEq, Repr

/-- The error taxonomy (60_exceptions.md R145). -/
inductive ErrorKind where
  | transportError
  | unknownBitRate
  | modeTransitionNotConfirmed
  deriving DecidableEq, Repr

/-- The events of the observable trace (00_scope.md R13). -/
inductive Event where
  | csL
  | csH
  | tx (b : Byte)
  | rx (b : Byte)
  | xfail
  | dly (ms : Nat)
  | cmd (c : Command)
  | rsp (r : Response)
  | irq
  deriving DecidableEq, Repr

/-- The whole state: the registers of R20, then the model's own fields. -/
structure State where
  /-- `PHASE` (R21). -/
  phase : Phase
  /-- `RXPEND`, ReceivePending (R22). -/
  rxpend : Bool
  /-- `cs_n`, the chip-select pin: `low` is asserted (R23). -/
  csN : Level
  /-- `OP` and `STEP` (R24). -/
  pc : Pc
  /-- `TP` (R25) with the transaction it is about. -/
  xport : Xport
  /-- `ERRF`: a byte slot of the current frame failed (R25). -/
  errf : Bool
  /-- `RDATA`: the byte the last RD received (R26). -/
  rdata : Byte
  /-- `RATE`: latched operand of INIT (R27). -/
  rate : RateName
  /-- `CNFV`: the looked-up triple (R30). -/
  cnfv : Triple
  /-- `ID`: latched identifier (R27). -/
  id : BitVec 11
  /-- `LEN`: latched payload length of SEND (R27). -/
  len : BitVec 4
  /-- `TXBUF`: latched payload of SEND (R27). -/
  txbuf : Buf
  /-- `CNT`: polls done in this SEND (R28). -/
  cnt : BitVec 6
  /-- `IDX`: payload byte index (R28). -/
  idx : BitVec 4
  /-- `RXLEN`: the data-length-code byte RECV read (R29). -/
  rxlen : Byte
  /-- `RXBUF`: payload bytes RECV read (R29). -/
  rxbuf : Buf
  /-- `INT_PREV`: last sampled level of the interrupt pin (R31). -/
  intPrev : Level
  /-- The observable trace, newest event first (R13, assumption 12). -/
  trace : List Event
  /-- Who moves next; when empty, a free draw (assumption 7). -/
  moves : List Move
  /-- The commands the host presents, in order (assumption 8). -/
  port : List CmdPort
  /-- What the next byte slots report; when empty, a free draw (assumption 5). -/
  chip : List Reply
  /-- How many free draws have been made (assumptions 5 and 7). -/
  draws : Nat
  deriving DecidableEq, Repr

/-- `OP` as a view of the program counter (R24). -/
def State.op (s : State) : Op :=
  match s.pc with
  | .idle => .idle
  | .init _ => .init
  | .send _ => .send
  | .recv _ => .recv

/-- `TP` as a view of the transport (R25). -/
def State.tp (s : State) : Tp :=
  match s.xport with
  | .idle => .idle
  | .slot _ k => .slot k
  | .desel _ => .desel
  | .closed _ => .idle

/-- The payload buffer with every byte zero. -/
def zeroBuf : Buf := ⟨0, 0, 0, 0, 0, 0, 0, 0⟩

/-- The state after reset: the values of R36. The registers R36 leaves unspecified hold the values of assumption 3. -/
def State.reset : State where
  phase := .uninitialized
  rxpend := false
  csN := .high
  pc := .idle
  xport := .idle
  errf := false
  rdata := 0
  rate := .kbps125
  cnfv := ⟨0, 0, 0⟩
  id := 0
  len := 0
  txbuf := zeroBuf
  cnt := 0
  idx := 0
  rxlen := 0
  rxbuf := zeroBuf
  intPrev := .high
  trace := []
  moves := []
  port := []
  chip := []
  draws := 0

/-- Why the machine stops with a fault. -/
inductive Fault where
  /-- Raised by RECV at V6 when the length byte read is above 8 (43_recv_interrupt.md R140, 93 U5): what the hardware
  does there is implementation-defined. Safe. -/
  | recvLengthOutOfRange
  /-- Raised by SEND at S9 and by RECV at V7 when `IDX` names none of the eight bytes of a payload buffer. No run
  reaches it (R28, assumption 16). Safe. -/
  | bufferIndexOutOfRange
  deriving DecidableEq, Repr

/-- Why the machine gives a step no meaning. -/
inductive Refusal where
  /-- Raised by `exec` for an instruction that has no meaning yet. Safe. -/
  | notModelled (mnemonic : String)
  /-- Raised by INIT, SEND, RECV when another operation is in progress (60_exceptions.md R159, 93 U9). Safe. -/
  | busy
  /-- Raised by SEND and RECV when the block is idle and `PHASE` is not Normal (R159, 93 U8). Safe. -/
  | notNormal
  /-- Raised by SEND when `cmd_len` is 9 to 15 (42_send.md R120, 93 U1). Safe. -/
  | lengthOver8
  /-- Raised by the fetch of a command with `cmd_op` = 0b11 (30_encoding.md R72, 93 U10). Safe. -/
  | reservedCommand
  /-- Raised by every operation that would act while a frame of another transaction is open (40_transport.md R85,
  10_state.md R25). Safe. -/
  | frameOpen
  /-- Raised by RST, RD, WR when no frame is open and the sequencer's micro-step is not that transaction: they are
  usable only from inside the expansions of INIT, SEND and RECV (30_encoding.md R74). Safe. -/
  | outsideExpansion
  deriving DecidableEq, Repr

end Sys2Proof.Machine
end

