-- ==== Sys2Proof/Machine/Operands.lean ====
section
/-!
DEFINITION. Operand assembly (spec 30_encoding.md R65 to R67), the payload buffers (10_state.md R27, R29), the bytes of
the three frames (R60 to R63), and the codes of responses and errors (R70, 60_exceptions.md R150).
-/

namespace Sys2Proof.Machine

/-- Bits 10 to 3 of an identifier (R65). -/
def sidh (i : BitVec 11) : Byte := (i >>> 3).setWidth 8

/-- Bits 2 to 0 of an identifier in bits 7 to 5 of a byte, zero below (R65). -/
def sidl (i : BitVec 11) : Byte := (i.setWidth 8 &&& 0x07) <<< 5

/-- The data-length code of a payload length: `zext_8(LEN)` (R66). -/
def dlc (n : BitVec 4) : Byte := n.setWidth 8

/-- The address of payload byte `i` of the mailbox whose first data register is `base` (R67). -/
def dataAddr (base : Addr) (i : BitVec 4) : Addr := base + i.setWidth 8

/-- Byte `i` of a payload buffer, if `i` is at most 7. -/
def bufGet (b : Buf) (i : Nat) : Option Byte :=
  match i with
  | 0 => some b.b0
  | 1 => some b.b1
  | 2 => some b.b2
  | 3 => some b.b3
  | 4 => some b.b4
  | 5 => some b.b5
  | 6 => some b.b6
  | 7 => some b.b7
  | _ => none

/-- A payload buffer with byte `i` replaced, if `i` is at most 7. -/
def bufSet (b : Buf) (i : Nat) (v : Byte) : Option Buf :=
  match i with
  | 0 => some { b with b0 := v }
  | 1 => some { b with b1 := v }
  | 2 => some { b with b2 := v }
  | 3 => some { b with b3 := v }
  | 4 => some { b with b4 := v }
  | 5 => some { b with b5 := v }
  | 6 => some { b with b6 := v }
  | 7 => some { b with b7 := v }
  | _ => none

/-- The eight bytes of a buffer in ascending index. -/
def bufList (b : Buf) : List Byte := [b.b0, b.b1, b.b2, b.b3, b.b4, b.b5, b.b6, b.b7]

/-- The latch of a payload: the bytes below `n` are written, the others keep what they hold (R27). -/
def bufLatch (n : Nat) (new old : Buf) : Buf where
  b0 := if 0 < n then new.b0 else old.b0
  b1 := if 1 < n then new.b1 else old.b1
  b2 := if 2 < n then new.b2 else old.b2
  b3 := if 3 < n then new.b3 else old.b3
  b4 := if 4 < n then new.b4 else old.b4
  b5 := if 5 < n then new.b5 else old.b5
  b6 := if 6 < n then new.b6 else old.b6
  b7 := if 7 < n then new.b7 else old.b7

/-- The bytes a transaction transmits: the list `out` of `Frame(out, nin)` (40_transport.md R80 to R83). -/
def Transaction.out : Transaction → List Byte
  | .rst => [Config.opReset]
  | .rd a => [Config.opRead, a]
  | .wr a v => [Config.opWrite, a, v]

/-- How many bytes a transaction receives after them: `nin` of `Frame(out, nin)`. -/
def Transaction.nin : Transaction → Nat
  | .rst => 0
  | .rd _ => 1
  | .wr _ _ => 0

/-- How many byte slots the frame of a transaction has (R60). -/
def Transaction.slots (t : Transaction) : Nat := t.out.length + t.nin

/-- The operation of the opcode table a transaction is. -/
def Transaction.instr : Transaction → Instr
  | .rst => .rst
  | .rd a => .rd a
  | .wr a v => .wr a v

/-- The response code `rsp_code` (R70). -/
def Response.code : Response → BitVec 3
  | .ok => 0
  | .noData => 1
  | .frame _ _ _ => 2
  | .eTransport => 3
  | .eUnknownRate => 4

/-- The cause number of an error kind (60_exceptions.md R150). -/
def ErrorKind.cause : ErrorKind → Nat
  | .transportError => 1
  | .unknownBitRate => 2
  | .modeTransitionNotConfirmed => 3

/-- The response that reports an error kind; ModeTransitionNotConfirmed is never reported (60_exceptions.md R148, R150). -/
def ErrorKind.reported : ErrorKind → Option Response
  | .transportError => some .eTransport
  | .unknownBitRate => some .eUnknownRate
  | .modeTransitionNotConfirmed => none

end Sys2Proof.Machine
end

