-- ==== Sys2Proof/Machine/Ops.lean ====
section
/-!
DEFINITION. The named operations every meaning is built from: emitting an event, moving the program counter, the byte
slot, opening a frame, a delay, accepting a command, completing an operation, and raising an error (the abort
procedure of spec 60_exceptions.md R155).
-/

namespace Sys2Proof.Machine

/-- An event is appended to the observable trace (00_scope.md R13). -/
def emit (e : Event) (s : State) : State := { s with trace := e :: s.trace }

/-- `STEP <- label` (00_scope.md R12). -/
def goto (p : Pc) (s : State) : State := { s with pc := p }

/-- `Delay(n)`: one step, the event DLY(n) (00_scope.md R12, 60_exceptions.md R160). -/
def delay (ms : Nat) (s : State) : State := emit (.dly ms) s

/-- What the next byte slot reports: the next reply of the environment, or a free draw (00_scope.md R12, 20_memory.md
R51). -/
def xfer (s : State) : Reply × State :=
  match s.chip with
  | r :: rs => (r, { s with chip := rs })
  | [] => (Config.freeReply s.draws, { s with draws := s.draws + 1 })

/-- Step F1 of the frame procedure (40_transport.md R80): chip-select low, `ERRF` cleared, T_SLOT(0). -/
def openFrame (t : Transaction) (s : State) : State :=
  emit .csL { s with csN := .low, errf := false, xport := .slot t 0 }

/-- A command is accepted (60_exceptions.md R159): `OP` and `STEP` are set and CMD(c) is emitted. The operand latches
are the caller's. -/
def accept (c : Command) (p : Pc) (s : State) : State := emit (.cmd c) (goto p s)

/-- `complete(r)`: the operation has run every step (00_scope.md R14); `OP <- Idle`, the response is given. -/
def complete (r : Response) (s : State) : State := emit (.rsp r) (goto .idle s)

/-- The response event of an error kind, if it is reported. -/
def report (e : ErrorKind) (s : State) : State :=
  match e.reported with
  | some r => emit (.rsp r) s
  | none => s

/-- `raise E`, the abort procedure (60_exceptions.md R155): the frame is closed already, the remaining micro-steps do
not run, `PHASE <- Uninitialized` if `OP` is Init, `RXPEND` and the latches keep what they hold, `OP <- Idle`, the
response is given. With no operation in progress there is nothing to abort and nobody to answer; no run raises an error
there (10_state.md R38 (b), assumption 9). -/
def raise (e : ErrorKind) (s : State) : State :=
  match s.pc with
  | .idle => { s with xport := .idle }
  | .init _ => report e (goto .idle { s with xport := .idle, phase := .uninitialized })
  | .send _ => report e (goto .idle { s with xport := .idle })
  | .recv _ => report e (goto .idle { s with xport := .idle })

/-- The return from a transaction at step F6 when no slot failed: the transport is idle again, and the caller's
micro-step goes on (40_transport.md R86). There is no other return in the block (60_exceptions.md R157). -/
def leaveFrame (s : State) : State := { s with xport := .idle }

/-- A micro-step of the sequencer runs only while no frame is open (10_state.md R25, 40_transport.md R86). -/
def whenTransportIdle (s : State) (k : Host.Outcome State Fault Refusal) : Host.Outcome State Fault Refusal :=
  match s.xport with
  | .idle => k
  | .slot _ _ => .refused .frameOpen
  | .desel _ => .refused .frameOpen
  | .closed _ => .refused .frameOpen

end Sys2Proof.Machine
end

