-- ==== Sys2Proof/Machine/Irq.lean ====
section
/-!
DEFINITION. IRQ (spec 43_recv_interrupt.md R137, 60_exceptions.md R156): the interrupt agent's one permitted action.
-/

namespace Sys2Proof.Machine

/-- The atomic set of `RXPEND`, with the event IRQ; nothing else changes, in every `PHASE` and every `OP`, also in the
middle of a frame (R137). -/
def takeInterrupt (s : State) : State := emit .irq { s with rxpend := true }

/-- The meaning of IRQ. -/
def execIrq (s : State) : Host.Outcome State Fault Refusal := .next (takeInterrupt s)

end Sys2Proof.Machine
end

