-- ==== Sys2Proof/Machine/Init.lean ====
section
/-!
DEFINITION. INIT (spec 41_initialize.md R95 to R107): admission, the micro-steps I0 to I12, and where each of them
goes when its transaction returns.
-/

namespace Sys2Proof.Machine

/-- INIT is accepted when `OP` is Idle, in every `PHASE` (R95): `RATE` is latched, `PHASE <- Uninitialized`, `OP <-
Init`, `STEP <- I0`. -/
def acceptInit (r : RateName) (s : State) : State :=
  accept (.init r) (.init .i0) { s with rate := r, phase := .uninitialized }

/-- The micro-step of INIT at label `l`, by the table of R104. A micro-step that is a transaction opens its frame and
keeps its label until the transaction returns (`initReturn`). -/
def initStep (c : Cfg) (l : InitLabel) (s : State) : Host.Outcome State Fault Refusal :=
  match l with
  | .i0 => .next (openFrame .rst s)
  | .i1 => .next (goto (.init .i2) { delay Config.tSettleMs s with phase := .configuring })
  | .i2 =>
    match c.lookup s.rate with
    | some t => .next (goto (.init .i3) { s with cnfv := t })
    | none => .next (raise .unknownBitRate s)
  | .i3 => .next (openFrame (.wr c.aCnf1 s.cnfv.c1) s)
  | .i4 => .next (openFrame (.wr c.aCnf2 s.cnfv.c2) s)
  | .i5 => .next (openFrame (.wr c.aCnf3 s.cnfv.c3) s)
  | .i6 j =>
    match c.openF.initSetup[j]? with
    | some w => .next (openFrame (.wr w.1 w.2) s)
    | none => .next (goto (.init .i7) s)
  | .i7 => .next (openFrame (.wr c.aIntf Config.intfClear) s)
  | .i8 => .next (openFrame (.wr c.aInte Config.rx0ieVal) s)
  | .i9 => .next (openFrame (.wr c.aCtrl c.openF.modeReq) s)
  | .i10 => .next (openFrame (.rd c.aStat) s)
  | .i11 =>
    if inNormalMode c s.rdata then .next (goto (.init .i12) s)
    else .next (openFrame (.wr c.aCtrl c.openF.modeReq) s)
  | .i12 => .next (complete .ok { s with phase := .normal })

/-- The label after the transaction of label `l` has returned (R104). I1, I2 and I12 have no transaction. -/
def initNext (l : InitLabel) : InitLabel :=
  match l with
  | .i0 => .i1
  | .i1 => .i1
  | .i2 => .i2
  | .i3 => .i4
  | .i4 => .i5
  | .i5 => .i6 0
  | .i6 j => .i6 (j + 1)
  | .i7 => .i8
  | .i8 => .i9
  | .i9 => .i10
  | .i10 => .i11
  | .i11 => .i12
  | .i12 => .i12

/-- INIT goes on after a transaction returned. -/
def initReturn (l : InitLabel) (s : State) : State := goto (.init (initNext l)) s

/-- The transaction the micro-step at label `l` opens, if it opens one (R104). -/
def initTransaction (c : Cfg) (l : InitLabel) (s : State) : Option Transaction :=
  match l with
  | .i0 => some .rst
  | .i1 => none
  | .i2 => none
  | .i3 => some (.wr c.aCnf1 s.cnfv.c1)
  | .i4 => some (.wr c.aCnf2 s.cnfv.c2)
  | .i5 => some (.wr c.aCnf3 s.cnfv.c3)
  | .i6 j => c.openF.initSetup[j]?.map fun w => .wr w.1 w.2
  | .i7 => some (.wr c.aIntf Config.intfClear)
  | .i8 => some (.wr c.aInte Config.rx0ieVal)
  | .i9 => some (.wr c.aCtrl c.openF.modeReq)
  | .i10 => some (.rd c.aStat)
  | .i11 => if inNormalMode c s.rdata then none else some (.wr c.aCtrl c.openF.modeReq)
  | .i12 => none

/-- INIT takes one step: it is accepted when the block is idle, and runs its next micro-step when it is the operation in
progress (assumption 10). -/
def runInit (c : Cfg) (r : RateName) (s : State) : Host.Outcome State Fault Refusal :=
  match s.pc with
  | .idle => whenTransportIdle s (.next (acceptInit r s))
  | .init l => whenTransportIdle s (initStep c l s)
  | .send _ => .refused .busy
  | .recv _ => .refused .busy

/-- The meaning of INIT. -/
def execInit (r : RateName) (s : State) : Host.Outcome State Fault Refusal :=
  runInit Config.cfg r s

end Sys2Proof.Machine
end

