-- ==== Sys2Proof/Machine/Recv.lean ====
section
/-!
DEFINITION. RECV (spec 43_recv_interrupt.md R125 to R141): admission, the micro-steps V0 to V12, and where each of them
goes when its transaction returns.
-/

namespace Sys2Proof.Machine

/-- The latch of an accepted RECV (R125): `ID`, `OP <- Recv`, `STEP <- V0`. -/
def acceptRecv (i : BitVec 11) (s : State) : State :=
  accept (.recv i) (.recv .v0) { s with id := i }

/-- Admission of RECV on an idle block (60_exceptions.md R159): `PHASE` = Normal. -/
def admitRecv (i : BitVec 11) (s : State) : Host.Outcome State Fault Refusal :=
  match s.phase with
  | .uninitialized => .refused .notNormal
  | .configuring => .refused .notNormal
  | .normal => .next (acceptRecv i s)

/-- The response of a RECV that read a frame (R135): the echoed identifier, the count, the bytes below it. -/
def frameResponse (s : State) : Response :=
  .frame s.id (s.rxlen.setWidth 4) ((bufList s.rxbuf).take s.rxlen.toNat)

/-- The micro-step of RECV at label `l`, by the table of R136. V0 tests and clears `RXPEND` in one step (20_memory.md
R53). A micro-step that is a transaction opens its frame and keeps its label until the transaction returns
(`recvReturn`). -/
def recvStep (c : Cfg) (l : RecvLabel) (s : State) : Host.Outcome State Fault Refusal :=
  match l with
  | .v0 => if s.rxpend then .next (goto (.recv .v1) { s with rxpend := false }) else .next (complete .noData s)
  | .v1 => .next (openFrame (.wr c.aRxsidh (sidh s.id)) s)
  | .v2 => .next (openFrame (.wr c.aRxsidl (sidl s.id)) s)
  | .v3 => .next (openFrame (.rd c.aIntf) s)
  | .v4 => if rxFull s.rdata then .next (goto (.recv .v5) s) else .next (goto (.recv .v3) s)
  | .v5 => .next (openFrame (.rd c.aRxdlc) s)
  | .v6 => if s.rxlen.toNat ≤ Config.maxLen then .next (goto (.recv .v7) s) else .fault .recvLengthOutOfRange
  | .v7 =>
    if s.idx.toNat < s.rxlen.toNat then
      if s.idx.toNat < 8 then .next (openFrame (.rd (dataAddr c.aRxd0 s.idx)) s) else .fault .bufferIndexOutOfRange
    else .next (goto (.recv .v8) s)
  | .v8 => .next (openFrame (.wr c.aIntf Config.intfClear) s)
  | .v9 => .next (openFrame (.wr c.aInte Config.rx0ieVal) s)
  | .v10 => .next (openFrame (.wr c.aRxsidh c.openF.rxSidhDef) s)
  | .v11 => .next (openFrame (.wr c.aRxsidl c.openF.rxSidlDef) s)
  | .v12 => .next (complete (frameResponse s) s)

/-- RECV goes on after the transaction of label `l` has returned (R136). V0, V4, V6 and V12 have no transaction. -/
def recvReturn (l : RecvLabel) (s : State) : Host.Outcome State Fault Refusal :=
  match l with
  | .v0 => .next s
  | .v1 => .next (goto (.recv .v2) s)
  | .v2 => .next (goto (.recv .v3) s)
  | .v3 => .next (goto (.recv .v4) s)
  | .v4 => .next s
  | .v5 => .next (goto (.recv .v6) { s with rxlen := s.rdata, idx := 0 })
  | .v6 => .next s
  | .v7 =>
    match bufSet s.rxbuf s.idx.toNat s.rdata with
    | some b =>
      .next (goto (.recv (if (s.idx + 1).toNat < s.rxlen.toNat then .v7 else .v8))
        { s with rxbuf := b, idx := s.idx + 1 })
    | none => .fault .bufferIndexOutOfRange
  | .v8 => .next (goto (.recv .v9) s)
  | .v9 => .next (goto (.recv .v10) s)
  | .v10 => .next (goto (.recv .v11) s)
  | .v11 => .next (goto (.recv .v12) s)
  | .v12 => .next s

/-- The transaction the micro-step at label `l` opens, if it opens one (R136). -/
def recvTransaction (c : Cfg) (l : RecvLabel) (s : State) : Option Transaction :=
  match l with
  | .v0 => none
  | .v1 => some (.wr c.aRxsidh (sidh s.id))
  | .v2 => some (.wr c.aRxsidl (sidl s.id))
  | .v3 => some (.rd c.aIntf)
  | .v4 => none
  | .v5 => some (.rd c.aRxdlc)
  | .v6 => none
  | .v7 =>
    if s.idx.toNat < s.rxlen.toNat ∧ s.idx.toNat < 8 then some (.rd (dataAddr c.aRxd0 s.idx)) else none
  | .v8 => some (.wr c.aIntf Config.intfClear)
  | .v9 => some (.wr c.aInte Config.rx0ieVal)
  | .v10 => some (.wr c.aRxsidh c.openF.rxSidhDef)
  | .v11 => some (.wr c.aRxsidl c.openF.rxSidlDef)
  | .v12 => none

/-- RECV takes one step: admission when the block is idle, its next micro-step when it is the operation in progress
(assumption 10). -/
def runRecv (c : Cfg) (i : BitVec 11) (s : State) : Host.Outcome State Fault Refusal :=
  match s.pc with
  | .idle => whenTransportIdle s (admitRecv i s)
  | .init _ => .refused .busy
  | .send _ => .refused .busy
  | .recv l => whenTransportIdle s (recvStep c l s)

/-- The meaning of RECV. -/
def execRecv (i : BitVec 11) (s : State) : Host.Outcome State Fault Refusal :=
  runRecv Config.cfg i s

end Sys2Proof.Machine
end

