-- ==== Sys2Proof/Machine/Send.lean ====
section
/-!
DEFINITION. SEND (spec 42_send.md R110 to R121): admission, the micro-steps S0 to S11, and where each of them goes when
its transaction returns.
-/

namespace Sys2Proof.Machine

/-- The payload a SEND command carries: its bytes below the length (R69). -/
def payload (n : BitVec 4) (d : Buf) : List Byte := (bufList d).take n.toNat

/-- The latches of an accepted SEND (R110, 10_state.md R27): `OP <- Send`, `STEP <- S0`. -/
def acceptSend (i : BitVec 11) (n : BitVec 4) (d : Buf) (s : State) : State :=
  accept (.send i (payload n d)) (.send .s0) { s with id := i, len := n, txbuf := bufLatch n.toNat d s.txbuf }

/-- Admission of SEND on an idle block (60_exceptions.md R159): `PHASE` = Normal and at most eight bytes. -/
def admitSend (i : BitVec 11) (n : BitVec 4) (d : Buf) (s : State) : Host.Outcome State Fault Refusal :=
  match s.phase with
  | .uninitialized => .refused .notNormal
  | .configuring => .refused .notNormal
  | .normal => if n.toNat ≤ Config.maxLen then .next (acceptSend i n d s) else .refused .lengthOver8

/-- The micro-step of SEND at label `l`, by the table of R118. A micro-step that is a transaction opens its frame and
keeps its label until the transaction returns (`sendReturn`). -/
def sendStep (c : Cfg) (l : SendLabel) (s : State) : Host.Outcome State Fault Refusal :=
  match l with
  | .s0 => .next (goto (.send .s1) { s with cnt := 0 })
  | .s1 => .next (openFrame (.rd c.aTxctrl) { s with cnt := s.cnt + 1 })
  | .s2 => if busy c s.rdata then .next (goto (.send .s3) s) else .next (goto (.send .s4) s)
  | .s3 => .next (goto (.send (if s.cnt.toNat < Config.nPoll then .s1 else .s4)) (delay Config.tPollMs s))
  | .s4 => .next (openFrame (.wr c.aTxsidh (sidh s.id)) s)
  | .s5 => .next (openFrame (.wr c.aTxsidl (sidl s.id)) s)
  | .s6 => .next (openFrame (.wr c.aTxeid8 0x00) s)
  | .s7 => .next (openFrame (.wr c.aTxeid0 0x00) s)
  | .s8 => .next (openFrame (.wr c.aTxdlc (dlc s.len)) s)
  | .s9 =>
    if s.idx.toNat < s.len.toNat then
      match bufGet s.txbuf s.idx.toNat with
      | some b => .next (openFrame (.wr (dataAddr c.aTxd0 s.idx) b) s)
      | none => .fault .bufferIndexOutOfRange
    else .next (goto (.send .s10) s)
  | .s10 => .next (openFrame (.wr c.aTxctrl c.txreq) s)
  | .s11 => .next (complete .ok s)

/-- SEND goes on after the transaction of label `l` has returned (R118). S0, S2, S3 and S11 have no transaction. -/
def sendReturn (l : SendLabel) (s : State) : State :=
  match l with
  | .s0 => s
  | .s1 => goto (.send .s2) s
  | .s2 => s
  | .s3 => s
  | .s4 => goto (.send .s5) s
  | .s5 => goto (.send .s6) s
  | .s6 => goto (.send .s7) s
  | .s7 => goto (.send .s8) s
  | .s8 => goto (.send .s9) { s with idx := 0 }
  | .s9 => goto (.send (if (s.idx + 1).toNat < s.len.toNat then .s9 else .s10)) { s with idx := s.idx + 1 }
  | .s10 => goto (.send .s11) s
  | .s11 => s

/-- The transaction the micro-step at label `l` opens, if it opens one (R118). -/
def sendTransaction (c : Cfg) (l : SendLabel) (s : State) : Option Transaction :=
  match l with
  | .s0 => none
  | .s1 => some (.rd c.aTxctrl)
  | .s2 => none
  | .s3 => none
  | .s4 => some (.wr c.aTxsidh (sidh s.id))
  | .s5 => some (.wr c.aTxsidl (sidl s.id))
  | .s6 => some (.wr c.aTxeid8 0x00)
  | .s7 => some (.wr c.aTxeid0 0x00)
  | .s8 => some (.wr c.aTxdlc (dlc s.len))
  | .s9 =>
    if s.idx.toNat < s.len.toNat then (bufGet s.txbuf s.idx.toNat).map fun b => .wr (dataAddr c.aTxd0 s.idx) b
    else none
  | .s10 => some (.wr c.aTxctrl c.txreq)
  | .s11 => none

/-- SEND takes one step: admission when the block is idle, its next micro-step when it is the operation in progress
(assumption 10). -/
def runSend (c : Cfg) (i : BitVec 11) (n : BitVec 4) (d : Buf) (s : State) : Host.Outcome State Fault Refusal :=
  match s.pc with
  | .idle => whenTransportIdle s (admitSend i n d s)
  | .init _ => .refused .busy
  | .send l => whenTransportIdle s (sendStep c l s)
  | .recv _ => .refused .busy

/-- The meaning of SEND. -/
def execSend (i : BitVec 11) (n : BitVec 4) (d : Buf) (s : State) : Host.Outcome State Fault Refusal :=
  runSend Config.cfg i n d s

end Sys2Proof.Machine
end

