-- ==== Sys2Proof/Machine/Transport.lean ====
section
/-!
DEFINITION. The Register Transport: the common frame procedure F1 to F6 and the transactions RST, RD, WR (spec
40_transport.md R80 to R89).
-/

namespace Sys2Proof.Machine

/-- F2: one transmit slot that sends `o`; the byte on MISO is dropped. -/
def transmitSlot (t : Transaction) (k : Nat) (o : Byte) (s : State) : State :=
  match xfer s with
  | (.ok _, s1) => emit (.tx o) { s1 with xport := .slot t (k + 1) }
  | (.fail, s1) => emit .xfail { s1 with errf := true, xport := .desel t }

/-- F3: one receive slot; the byte on MISO becomes `RDATA`. -/
def receiveSlot (t : Transaction) (k : Nat) (s : State) : State :=
  match xfer s with
  | (.ok b, s1) => emit (.rx b) { s1 with rdata := b, xport := .slot t (k + 1) }
  | (.fail, s1) => emit .xfail { s1 with errf := true, xport := .desel t }

/-- F2, F3 or F4 at T_SLOT(k): a transmit slot for each byte of `out`, then `nin` receive slots, then T_DESEL. -/
def slotStep (t : Transaction) (k : Nat) (s : State) : State :=
  match t.out[k]? with
  | some o => transmitSlot t k o s
  | none => if k < t.slots then receiveSlot t k s else { s with xport := .desel t }

/-- F5: chip-select is released, on every path (R84). -/
def closeFrame (t : Transaction) (s : State) : State :=
  emit .csH { s with csN := .high, xport := .closed t }

/-- The caller's micro-step goes on after its transaction returned (10_state.md R24). -/
def resume (s : State) : Host.Outcome State Fault Refusal :=
  match s.pc with
  | .idle => .next s
  | .init l => .next (initReturn l s)
  | .send l => .next (sendReturn l s)
  | .recv l => recvReturn l s

/-- F6: raise TransportError if a slot failed, otherwise return to the caller. -/
def finishFrame (s : State) : Host.Outcome State Fault Refusal :=
  if s.errf then .next (raise .transportError s) else resume (leaveFrame s)

/-- The transaction the sequencer's current micro-step opens, if it opens one. -/
def currentTransaction (c : Cfg) (s : State) : Option Transaction :=
  match s.pc with
  | .idle => none
  | .init l => initTransaction c l s
  | .send l => sendTransaction c l s
  | .recv l => recvTransaction c l s

/-- Step F1 by a transaction itself: only where the sequencer's micro-step is that transaction, so never on an idle block
(30_encoding.md R74). The rest of that micro-step's line (`CNT` at S1) is the operation's, not the transaction's. -/
def startInside (c : Cfg) (t : Transaction) (s : State) : Host.Outcome State Fault Refusal :=
  if currentTransaction c s = some t then .next (openFrame t s) else .refused .outsideExpansion

/-- A transaction takes one step of the frame procedure: F1 inside the expansion that calls it, when no frame is open,
then its slots, F4, F5 and F6 while it is the open one. Another transaction's frame is never entered (R85). -/
def transact (c : Cfg) (t : Transaction) (s : State) : Host.Outcome State Fault Refusal :=
  match s.xport with
  | .idle => startInside c t s
  | .slot t' k => if t' = t then .next (slotStep t k s) else .refused .frameOpen
  | .desel t' => if t' = t then .next (closeFrame t s) else .refused .frameOpen
  | .closed t' => if t' = t then finishFrame s else .refused .frameOpen

/-- The meaning of RST (R81): `Frame([0xC0], 0)`. -/
def execRst (s : State) : Host.Outcome State Fault Refusal := transact Config.cfg .rst s

/-- The meaning of RD (R82): `Frame([0x03, a], 1)`. -/
def execRd (a : Addr) (s : State) : Host.Outcome State Fault Refusal := transact Config.cfg (.rd a) s

/-- The meaning of WR (R83): `Frame([0x02, a, v], 0)`. -/
def execWr (a : Addr) (v : Byte) (s : State) : Host.Outcome State Fault Refusal := transact Config.cfg (.wr a v) s

end Sys2Proof.Machine
end

