-- ==== Sys2Proof/Machine/Dispatch.lean ====
section
/-!
DEFINITION. exec: one arm for each operation of the opcode table.
-/

namespace Sys2Proof.Machine

def exec (i : Instr) (s : State) : Host.Outcome State Fault Refusal :=
  match i with
  | .rst => Sys2Proof.Machine.execRst s
  | .rd a => Sys2Proof.Machine.execRd a s
  | .wr a v => Sys2Proof.Machine.execWr a v s
  | .init rate => Sys2Proof.Machine.execInit rate s
  | .send id len data => Sys2Proof.Machine.execSend id len data s
  | .recv id => Sys2Proof.Machine.execRecv id s
  | .irq => Sys2Proof.Machine.execIrq s

end Sys2Proof.Machine
end

