-- ==== Sys2Proof/WellFormed.lean ====
section
/-!
DEFINITION. Which operations are well formed. The widths of the operands already make an identifier over 0x7FF
unrepresentable (spec 93 U14); what is left to check is the payload length of SEND (R69, R120).
-/

namespace Sys2Proof

/-- A SEND carries at most eight payload bytes (R69: "0 to 8 legal, 9 to 15 refused"); every other operation is well
formed whatever its operands. -/
def Instr.wellFormed : Instr → Bool
  | .rst => true
  | .rd _ => true
  | .wr _ _ => true
  | .init _ => true
  | .send _ len _ => decide (len.toNat ≤ 8)
  | .recv _ => true
  | .irq => true

end Sys2Proof
end

