-- ==== Sys2Proof/Decode.lean ====
section
/-!
DEFINITION. The decoder and the encoder (spec 30_encoding.md R60 to R64, R69, R71, R72), and how a word of
opcode_table.json is laid out for them.
-/

namespace Sys2Proof

/-- How many byte slots a frame has, from its first byte alone (R64). -/
def frameLength (b : Byte) : Option Nat :=
  if b = Config.opReset then some 1
  else if b = Config.opRead then some 3
  else if b = Config.opWrite then some 3
  else none

/-- An SPI frame, its byte slots in order (R60 to R63). The third slot of a read carries the chip's byte and is no
operand. -/
def decodeFrame : List Byte → Except DecodeError Instr
  | [] => .error .emptyFrame
  | b :: rest =>
    if b = Config.opReset then
      match rest with
      | [] => .ok .rst
      | _ => .error (.wrongLength b (rest.length + 1))
    else if b = Config.opRead then
      match rest with
      | [a, _] => .ok (.rd a)
      | _ => .error (.wrongLength b (rest.length + 1))
    else if b = Config.opWrite then
      match rest with
      | [a, v] => .ok (.wr a v)
      | _ => .error (.wrongLength b (rest.length + 1))
    else .error (.unknownOpcode b)

/-- A command on the host's port (R69). A length of 9 to 15 is refused at admission, not here (60_exceptions.md R159). -/
def decodeCommand (p : CmdPort) : Except DecodeError Instr :=
  if p.op = 0b00 then .ok (.init p.rate)
  else if p.op = 0b01 then .ok (.send p.id p.len p.data)
  else if p.op = 0b10 then .ok (.recv p.id)
  else .error .reservedCommand

/-- Two successive samples of the interrupt pin: only 1 then 0 selects IRQ (R71). -/
def decodeEdge : Level → Level → Except DecodeError Instr
  | .high, .low => .ok .irq
  | .high, .high => .error .noFallingEdge
  | .low, .low => .error .noFallingEdge
  | .low, .high => .error .noFallingEdge

/-- The decoder, total on the three forms. -/
def decode : Encoded → Except DecodeError Instr
  | .frame w => decodeFrame w
  | .command p => decodeCommand p
  | .edge a b => decodeEdge a b

/-- The encoder, from the formats F-RST, F-RD, F-WR (R61 to R63), F-CMD (R69) and F-EDGE (R71). Ports a command does
not use carry zeros. -/
def encode : Instr → Encoded
  | .rst => .frame [0xC0]
  | .rd a => .frame [0x03, a, Config.cfg.fill]
  | .wr a v => .frame [0x02, a, v]
  | .init r => .command { op := 0b00, rate := r, id := 0, len := 0, data := ⟨0, 0, 0, 0, 0, 0, 0, 0⟩ }
  | .send i n d => .command { op := 0b01, rate := .kbps125, id := i, len := n, data := d }
  | .recv i => .command { op := 0b10, rate := .kbps125, id := i, len := 0, data := ⟨0, 0, 0, 0, 0, 0, 0, 0⟩ }
  | .irq => .edge .high .low

/-- The words of opcode_table.json: a row of 24 bits is the three slots of a frame, slot 0 in bits 23:16; a row of at
most 8 bits is the one slot 0xC0 or, with every bit above the two of `cmd_op` zero, a command whose operand ports are
zero. The table gives RECV and IRQ the same two bits; the word is read as RECV (assumptions 13 and 14). -/
def tableEncoding (nbits w : Nat) : Option Encoded :=
  if nbits = 24 then
    if w < 2 ^ 24 then
      some (.frame [BitVec.ofNat 8 (w / 2 ^ 16), BitVec.ofNat 8 (w / 2 ^ 8), BitVec.ofNat 8 w])
    else none
  else if nbits ≤ 8 then
    if w = 0xC0 then some (.frame [0xC0])
    else if w < 4 then
      some (.command
        { op := BitVec.ofNat 2 w, rate := .kbps125, id := 0, len := 0, data := ⟨0, 0, 0, 0, 0, 0, 0, 0⟩ })
    else none
  else none

/-- The operation the decoder reads from a word of the opcode table. -/
def decodeTableWord (nbits w : Nat) : Option Instr :=
  match tableEncoding nbits w with
  | none => none
  | some e =>
    match decode e with
    | .ok i => some i
    | .error _ => none

end Sys2Proof
end

