-- ==== Sys2Proof/Machine/Fetch.lean ====
section
/-!
DEFINITION. What the next step runs: who moves, what the normal context fetches (spec 10_state.md R24, R25,
60_exceptions.md R158, R159), the sampling of the interrupt pin (10_state.md R31), and the reset of the block
(70_reset_and_hazards.md R170).
-/

namespace Sys2Proof.Machine

/-- What a fetch finds: an operation to run with the state it is run in, an encoding that selects none, or nothing. -/
inductive Fetched where
  | run (i : Instr) (s : State)
  | illegal (e : DecodeError)
  | wait
  deriving DecidableEq, Repr

/-- Who moves next: the next entry of the move list, or a free draw (assumption 7). -/
def takeMove (s : State) : Move × State :=
  match s.moves with
  | m :: ms => (m, { s with moves := ms })
  | [] => (Config.freeMove s.draws, { s with draws := s.draws + 1 })

/-- The decoder's answer on an encoding, as a fetch. -/
def fetchEncoded (e : Encoded) (s : State) : Fetched :=
  match decode e with
  | .ok i => .run i s
  | .error d => .illegal d

/-- The operation in progress, from its latches (10_state.md R27); on an idle block the next command of the port, which
is not sampled while the block is busy (60_exceptions.md R159, 93 U9). -/
def fetchCommand (s : State) : Fetched :=
  match s.pc with
  | .init _ => .run (.init s.rate) s
  | .send _ => .run (.send s.id s.len s.txbuf) s
  | .recv _ => .run (.recv s.id) s
  | .idle =>
    match s.port with
    | [] => .wait
    | p :: ps => fetchEncoded (.command p) { s with port := ps }

/-- What the normal context runs next: the open transaction, else the operation in progress or the next command
(10_state.md R25: while `TP` is not T_IDLE the sequencer runs nothing else). -/
def fetch (s : State) : Fetched :=
  match s.xport with
  | .slot t _ => .run t.instr s
  | .desel t => .run t.instr s
  | .closed t => .run t.instr s
  | .idle => fetchCommand s

/-- The interrupt agent samples the pin: each sample sets `INT_PREV`, and a falling edge selects IRQ (10_state.md R31,
30_encoding.md R71). -/
def samplePin (l : Level) (s : State) : Fetched :=
  match decode (.edge s.intPrev l) with
  | .ok i => .run i { s with intPrev := l }
  | .error e => .illegal e

/-- Reset of the block (R170): every register at its reset value, no transaction and no delay; the trace starts anew
(assumption 15). The environment's lists stay. -/
def blockReset (s : State) : State :=
  { State.reset with moves := s.moves, port := s.port, chip := s.chip, draws := s.draws }

/-- The transaction an operation is, if it is one. -/
def transactionOf : Instr → Option Transaction
  | .rst => some .rst
  | .rd a => some (.rd a)
  | .wr a v => some (.wr a v)
  | .init _ => none
  | .send _ _ _ => none
  | .recv _ => none
  | .irq => none

/-- The micro-step of INIT whose transaction is of the same kind, with the `PHASE` it runs in: I0 for RST, I10 for RD, I3
for WR (41_initialize.md R104). -/
def homeOf : Transaction → InitLabel × Phase
  | .rst => (.i0, .uninitialized)
  | .rd _ => (.i10, .configuring)
  | .wr _ _ => (.i3, .configuring)

/-- `s` with the frame of `t` open in the midst of INIT, its first slot next (assumption 8). -/
def placeTransaction (t : Transaction) (s : State) : State :=
  openFrame t { s with moves := .run :: s.moves, pc := .init (homeOf t).1, phase := (homeOf t).2 }

/-- The word of the table's numbering placed where the next step runs it: a frame as the open one of an INIT, since no
frame is run outside an expansion (30_encoding.md R74), a command at the head of the port. -/
def placeWord (s : State) (nbits w : Nat) : State :=
  match tableEncoding nbits w with
  | none => s
  | some e =>
    match decode e with
    | .error _ => s
    | .ok i =>
      match transactionOf i, e with
      | some t, _ => placeTransaction t s
      | none, .command p => { s with moves := .run :: s.moves, pc := .idle, xport := .idle, port := p :: s.port }
      | none, .edge a b => { s with moves := .sample b :: s.moves, intPrev := a }
      | none, .frame _ => s

end Sys2Proof.Machine
end

