-- ==== Sys2Proof/Machine/Step.lean ====
section
/-!
DEFINITION. One step of the machine: one agent moves (spec 20_memory.md R53, 60_exceptions.md R158).
-/

namespace Sys2Proof.Machine

/-- The normal context takes one step: it runs what it fetches; with no command presented it waits. A command with
`cmd_op` = 0b11 is the one thing it can fetch that selects no operation (30_encoding.md R72). -/
def runStep (s : State) : Host.Outcome State Fault Refusal :=
  match fetch s with
  | .run i s1 => exec i s1
  | .illegal _ => .refused .reservedCommand
  | .wait => .next s

/-- The interrupt agent takes one step: on a falling edge it runs IRQ, otherwise only `INT_PREV` follows the pin. -/
def sampleStep (l : Level) (s : State) : Host.Outcome State Fault Refusal :=
  match samplePin l s with
  | .run i s1 => exec i s1
  | .illegal _ => .next { s with intPrev := l }
  | .wait => .next { s with intPrev := l }

/-- One step: the agent whose turn it is moves. -/
def step (s : State) : Host.Outcome State Fault Refusal :=
  match takeMove s with
  | (.run, s1) => runStep s1
  | (.sample l, s1) => sampleStep l s1
  | (.reset, s1) => .next (blockReset s1)

/-- `s` with the instruction of a table word stored where `step` fetches its next instruction (assumption 8). -/
def State.withFetchWord (s : State) (nbits w : Nat) : State := placeWord s nbits w

end Sys2Proof.Machine
end

