-- ==== Sys2Proof/Safety.lean ====
section
/-!
DEFINITION. What claims are stated in: the invariants of the state (spec 10_state.md R38, R28), the legal traces
(40_transport.md R88), the closed address set (20_memory.md R55), and the events of one complete frame.
-/

namespace Sys2Proof.Machine

/-- The trace as an observer reads it, oldest event first (00_scope.md R13). -/
def State.observed (s : State) : List Event := s.trace.reverse

/-- The transaction whose frame is open, or closed and not yet returned from. -/
def State.openTransaction (s : State) : Option Transaction :=
  match s.xport with
  | .idle => none
  | .slot t _ => some t
  | .desel t => some t
  | .closed t => some t

/-- `s` right after step F1 of transaction `t` (40_transport.md R80): chip-select low, `ERRF` 0, T_SLOT(0), event CS_L. -/
def opened (t : Transaction) (s : State) : State :=
  { s with csN := .low, errf := false, xport := .slot t 0, trace := .csL :: s.trace }

/-- The same outcome with the next state changed by `f`. -/
def mapNext (f : State → State) : Host.Outcome State Fault Refusal → Host.Outcome State Fault Refusal
  | .next s => .next (f s)
  | .fault r => .fault r
  | .refused r => .refused r

/-! ### Chip-select gating and phases (R38, R21) -/

/-- R38 (a), (b), (c): chip-select is low exactly while `TP` is not T_IDLE; an idle block has nothing in the transport;
Configuring occurs only inside INIT. -/
def Gated (s : State) : Prop :=
  (s.csN = .low ↔ s.tp ≠ .idle) ∧ (s.pc = .idle → s.xport = .idle) ∧ (s.phase = .configuring → s.op = .init)

/-- `PHASE` along an operation (R21, R95, R97): SEND and RECV run in Normal; INIT runs I0 and I1 in Uninitialized and the
rest in Configuring; an idle block is not Configuring. -/
def PhaseTracksOperation (s : State) : Prop :=
  match s.pc with
  | .idle => s.phase ≠ .configuring
  | .init .i0 => s.phase = .uninitialized
  | .init .i1 => s.phase = .uninitialized
  | .init _ => s.phase = .configuring
  | .send _ => s.phase = .normal
  | .recv _ => s.phase = .normal

/-! ### Counters and indices (R28) -/

/-- The bounds of R28 where the registers are in use: at most 50 polls, an index of at most 8, below the length while a
data transaction is open. -/
def CountersBounded (s : State) : Prop :=
  match s.pc with
  | .idle => True
  | .init _ => True
  | .send l =>
    s.len.toNat ≤ 8 ∧
      match l with
      | .s1 => s.cnt.toNat ≤ 50 ∧ (s.xport = .idle → s.cnt.toNat < 50)
      | .s2 => s.cnt.toNat ≤ 50
      | .s3 => s.cnt.toNat ≤ 50
      | .s9 => s.idx.toNat ≤ s.len.toNat ∧ (s.xport ≠ .idle → s.idx.toNat < s.len.toNat)
      | .s10 => s.idx.toNat ≤ 8
      | .s11 => s.idx.toNat ≤ 8
      | _ => True
  | .recv l =>
    match l with
    | .v6 => s.idx = 0
    | .v7 => s.rxlen.toNat ≤ 8 ∧ s.idx.toNat ≤ s.rxlen.toNat ∧ (s.xport ≠ .idle → s.idx.toNat < s.rxlen.toNat)
    | .v8 => s.rxlen.toNat ≤ 8
    | .v9 => s.rxlen.toNat ≤ 8
    | .v10 => s.rxlen.toNat ≤ 8
    | .v11 => s.rxlen.toNat ≤ 8
    | .v12 => s.rxlen.toNat ≤ 8
    | _ => True

/-! ### Legal traces (R88) -/

/-- A byte sent. -/
def Event.isTx : Event → Bool
  | .tx _ => true
  | _ => false

/-- A byte received. -/
def Event.isRx : Event → Bool
  | .rx _ => true
  | _ => false

/-- The slot events of a frame that was closed, newest first: one of the three complete frames, or one cut short by a
failed slot (R88 (c), (d)). -/
def legalFrame : List Event → Bool
  | [a] => a == .tx 0xC0 || a == .xfail
  | [b, a] => b == .xfail && (a == .tx 0x03 || a == .tx 0x02)
  | [c, b, a] =>
    b.isTx && ((a == .tx 0x03 && (c.isRx || c == .xfail)) || (a == .tx 0x02 && (c.isTx || c == .xfail)))
  | _ => false

/-- Where a trace stands: outside every frame (with, whether the last frame ended in XFAIL), inside a frame with these
slot events (newest first), or already illegal. -/
inductive Framing where
  | outside (lastFailed : Bool)
  | inside (slots : List Event)
  | broken
  deriving DecidableEq, Repr

/-- The slot list of a frame with one more slot event; nothing follows a failed slot (R88 (c)). -/
def addSlot (l : List Event) (e : Event) : Framing :=
  if l.head? = some .xfail then .broken else .inside (e :: l)

/-- One more event (R88): CS_L and CS_H alternate, slot events lie inside frames, DLY, CMD and RSP outside, a frame is
legal when it closes, and RSP(E_TRANSPORT) follows a frame that ended in XFAIL. IRQ may fall anywhere. -/
def Framing.after (f : Framing) (e : Event) : Framing :=
  match f, e with
  | .broken, _ => .broken
  | .outside b, .irq => .outside b
  | .outside _, .csL => .inside []
  | .outside b, .dly _ => .outside b
  | .outside b, .cmd _ => .outside b
  | .outside b, .rsp .eTransport => if b then .outside b else .broken
  | .outside b, .rsp _ => .outside b
  | .outside _, _ => .broken
  | .inside l, .irq => .inside l
  | .inside l, .tx b => addSlot l (.tx b)
  | .inside l, .rx b => addSlot l (.rx b)
  | .inside l, .xfail => addSlot l .xfail
  | .inside l, .csH => if legalFrame l then .outside (l.head? == some .xfail) else .broken
  | .inside _, _ => .broken

/-- Where a trace, newest event first, stands. -/
def framing : List Event → Framing
  | [] => .outside false
  | e :: es => (framing es).after e

/-- The slot events of the first `k` slots of a transaction that did not fail, newest first; `d` is the byte received. -/
def slotEvents (t : Transaction) (k : Nat) (d : Byte) : List Event :=
  ((t.out.map Event.tx ++ List.replicate t.nin (Event.rx d)).take k).reverse

/-- R88 for the trace so far, with what the transport's position says of its last frame. -/
def TraceLegal (s : State) : Prop :=
  match s.xport with
  | .idle => ∃ b, framing s.trace = .outside b
  | .slot t k => k ≤ t.slots ∧ s.errf = false ∧ framing s.trace = .inside (slotEvents t k s.rdata)
  | .desel _ => ∃ l, framing s.trace = .inside l ∧ legalFrame l = true ∧ s.errf = (l.head? == some .xfail)
  | .closed _ => framing s.trace = .outside s.errf

/-! ### The closed address set (R55) -/

/-- The address byte a transaction puts on the bus, if it has one. -/
def Transaction.address : Transaction → Option Addr
  | .rst => none
  | .rd a => some a
  | .wr a _ => some a

/-- A trace without its IRQ events, which may fall anywhere. -/
def withoutIrq (l : List Event) : List Event := l.filter (· != .irq)

/-- The address bytes of a trace, newest first: the second TX of each frame (R55). -/
def busAddresses : List Event → List Addr
  | [] => []
  | e :: es =>
    match e, es with
    | .tx a, .tx _ :: .csL :: _ => a :: busAddresses es
    | _, _ => busAddresses es

/-- Every address byte on the bus, and the address of the open transaction, is one of the register table (R55, R33). -/
def AddressesClosed (s : State) : Prop :=
  (∀ a ∈ busAddresses (withoutIrq s.trace), a ∈ Config.cfg.addresses) ∧
    ∀ t a, s.openTransaction = some t → t.address = some a → a ∈ Config.cfg.addresses

/-! ### Complete frames -/

/-- The events of a complete frame of `t`, newest first, in which the chip answered `d` (R88 (d)). -/
def frameEvents (t : Transaction) (d : Byte) : List Event :=
  .csH :: (slotEvents t t.slots d ++ [.csL])

/-- `RDATA` after a complete frame of `t` in which the chip answered `d`: only a read changes it (R81 to R83). -/
def rdataAfter (t : Transaction) (d old : Byte) : Byte :=
  match t with
  | .rst => old
  | .rd _ => d
  | .wr _ _ => old

/-- The events of the data writes of a SEND (42_send.md R116): bytes `bs` to the addresses from `a` on, one frame each,
newest first. -/
def dataFrames (a : Addr) : List Byte → List Event
  | [] => []
  | b :: bs => dataFrames (a + 1) bs ++ frameEvents (.wr a b) 0

/-- The whole trace of a SEND whose first poll, answered `d`, finds the mailbox free (42_send.md R118), newest first,
without the command's own event. -/
def sendTrace (c : Cfg) (i : BitVec 11) (n : BitVec 4) (bs : List Byte) (d : Byte) : List Event :=
  .rsp .ok :: (frameEvents (.wr c.aTxctrl c.txreq) 0 ++ dataFrames c.aTxd0 bs ++ frameEvents (.wr c.aTxdlc (dlc n)) 0 ++
    frameEvents (.wr c.aTxeid0 0x00) 0 ++ frameEvents (.wr c.aTxeid8 0x00) 0 ++ frameEvents (.wr c.aTxsidl (sidl i)) 0 ++
    frameEvents (.wr c.aTxsidh (sidh i)) 0 ++ frameEvents (.rd c.aTxctrl) d)

/-- The events of busy polls of a SEND (42_send.md R111), which answered `ds`: a read of the transmit-control register and
a delay each, newest first. -/
def pollTrace (c : Cfg) : List Byte → List Event
  | [] => []
  | d :: ds => pollTrace c ds ++ .dly Config.tPollMs :: frameEvents (.rd c.aTxctrl) d

/-- How many steps the normal context takes for a SEND whose first poll finds the mailbox free: admission, S0, S2, S11
one each, seven for each of the 7 + L frames, and one for S9 when there is no byte to write. -/
def sendSteps (len : Nat) : Nat := 4 + 7 * (7 + len) + if len = 0 then 1 else 0

/-- The events of a list of register writes, one frame each (41_initialize.md R100), newest first. -/
def writeFrames : List (Addr × Byte) → List Event
  | [] => []
  | w :: ws => writeFrames ws ++ frameEvents (.wr w.1 w.2) 0

/-- The whole trace of an INIT whose rate name has the triple `v` and whose status read answers `d` (R104), newest first,
without the command's own event. -/
def initTrace (c : Cfg) (v : Triple) (d : Byte) : List Event :=
  .rsp .ok ::
    ((if inNormalMode c d then [] else frameEvents (.wr c.aCtrl c.openF.modeReq) 0) ++ frameEvents (.rd c.aStat) d ++
      frameEvents (.wr c.aCtrl c.openF.modeReq) 0 ++ frameEvents (.wr c.aInte Config.rx0ieVal) 0 ++
      frameEvents (.wr c.aIntf Config.intfClear) 0 ++ writeFrames c.openF.initSetup ++ frameEvents (.wr c.aCnf3 v.c3) 0 ++
      frameEvents (.wr c.aCnf2 v.c2) 0 ++ frameEvents (.wr c.aCnf1 v.c1) 0 ++ [.dly Config.tSettleMs] ++
      frameEvents .rst 0)

/-- How many steps the normal context takes for such an INIT with `n` setup writes: admission, I1, I2, the end of I6 and
I12 one each, five for RST, seven for each of the `7 + n` other frames, and for I11 one or, with the re-issue, seven. -/
def initSteps (n : Nat) (normal : Bool) : Nat := 5 + 5 + 7 * (7 + n) + if normal then 1 else 7

/-- The events of the data reads of a RECV (43_recv_interrupt.md R131): bytes `bs` from the addresses from `a` on, one
frame each, newest first. -/
def dataReads (a : Addr) : List Byte → List Event
  | [] => []
  | b :: bs => dataReads (a + 1) bs ++ frameEvents (.rd a) b

/-- The whole trace of a RECV with `RXPEND` set whose first flag read, answered `f`, shows a frame, and which reads the
length `n` and the bytes `bs` (R136), newest first, without the command's own event. -/
def recvTrace (c : Cfg) (i : BitVec 11) (f n : Byte) (bs : List Byte) : List Event :=
  .rsp (.frame i (n.setWidth 4) bs) ::
    (frameEvents (.wr c.aRxsidl c.openF.rxSidlDef) 0 ++ frameEvents (.wr c.aRxsidh c.openF.rxSidhDef) 0 ++
      frameEvents (.wr c.aInte Config.rx0ieVal) 0 ++ frameEvents (.wr c.aIntf Config.intfClear) 0 ++
      dataReads c.aRxd0 bs ++ frameEvents (.rd c.aRxdlc) n ++ frameEvents (.rd c.aIntf) f ++
      frameEvents (.wr c.aRxsidl (sidl i)) 0 ++ frameEvents (.wr c.aRxsidh (sidh i)) 0)

/-- How many steps the normal context takes for such a RECV of `n` bytes: admission, V0, V4, V6, V12 one each, seven for
each of the `8 + n` frames, and one for V7 when there is no byte to read. -/
def recvSteps (n : Nat) : Nat := 5 + 7 * (8 + n) + if n = 0 then 1 else 0

end Sys2Proof.Machine
end

