-- ==== Sys2Proof/Certificates/Slice0/Obligations.lean ====
section
/-!
DEFINITION. The statements for the provers. A statement whose conclusion is an equation of outcomes shows the frame with
it: every register that the right side does not name is as it was.
-/

open Sys2Proof Sys2Proof.Machine

/-! ### Encodings -/

/-- Words written out from R61, R62, R63, R69 and R71 decode to the operation they stand for. -/
def Obligations.WrittenWordsDecode : Prop :=
  decode (.frame [0b11000000]) = .ok .rst ∧
    decode (.frame [0b00000011, 0b00101100, 0b00000000]) = .ok (.rd 0x2C) ∧
    decode (.frame [0b00000010, 0b00110001, 0b00100100]) = .ok (.wr 0x31 0x24) ∧
    (∀ r i n d, decode (.command ⟨0b00, r, i, n, d⟩) = .ok (.init r)) ∧
    (∀ r i n d, decode (.command ⟨0b01, r, i, n, d⟩) = .ok (.send i n d)) ∧
    (∀ r i n d, decode (.command ⟨0b10, r, i, n, d⟩) = .ok (.recv i)) ∧
    decode (.edge .high .low) = .ok .irq

/-- Decoding inverts encoding, for every operation and every operand value. -/
def Obligations.DecodeInvertsEncode : Prop :=
  ∀ i : Instr, decode (encode i) = .ok i

/-- The decoder accepts exactly the encodings the formats give and no other (R60 to R64, R69, R71, R72): in particular no
other first byte, no other frame length, not `cmd_op` = 0b11, no other pair of samples. -/
def Obligations.DecodesExactlyTheFormats : Prop :=
  ∀ (e : Encoded) (i : Instr), decode e = .ok i ↔
    match i with
    | .rst => e = .frame [0xC0]
    | .rd a => ∃ d, e = .frame [0x03, a, d]
    | .wr a v => e = .frame [0x02, a, v]
    | .init r => ∃ p, e = .command p ∧ p.op = 0b00 ∧ p.rate = r
    | .send id n d => ∃ p, e = .command p ∧ p.op = 0b01 ∧ p.id = id ∧ p.len = n ∧ p.data = d
    | .recv id => ∃ p, e = .command p ∧ p.op = 0b10 ∧ p.id = id
    | .irq => e = .edge .high .low

/-- R65: `SIDH(ID) = ID[10:3]`; `SIDL(ID)` holds `ID[2:0]` in bits 7 to 5 and zero in bits 4 to 0 (the
spec's decision D14); together they give `ID` back. -/
def Obligations.IdentifierSplit : Prop :=
  ∀ i : BitVec 11,
    sidh i = i.extractLsb' 3 8 ∧ sidl i = i.extractLsb' 0 3 ++ 0b00000#5 ∧ sidh i ++ (sidl i).extractLsb' 5 3 = i

/-- R68: the three tests on bytes read, over the configuration's fields. -/
def Obligations.ByteTests : Prop :=
  ∀ b : Byte,
    (busy Config.cfg b = true ↔ b &&& Config.cfg.txreq ≠ 0) ∧ (rxFull b = true ↔ b &&& 0x01 ≠ 0) ∧
      inNormalMode Config.cfg b = Config.cfg.isNormal b

/-- The DEFAULT fields of R8 at the values the spec chose (its decisions D8 to D12 and D18, assumption 1): the addresses,
the transmit-request mask, the fill byte, and `IS_NORMAL` as "bits 7 to 5 are zero"; and W1 to W8 of R10 hold (W6 and W7: the
spec's decision D17, through assumption 2). -/
def Obligations.DefaultRegisterMap : Prop :=
  [Config.cfg.aFiltH, Config.cfg.aFiltL, Config.cfg.aMaskH, Config.cfg.aMaskL, Config.cfg.aStat, Config.cfg.aCtrl] =
      [0x00, 0x01, 0x20, 0x21, 0x0E, 0x0F] ∧
    [Config.cfg.aCnf3, Config.cfg.aCnf2, Config.cfg.aCnf1, Config.cfg.aInte, Config.cfg.aIntf] =
      [0x28, 0x29, 0x2A, 0x2B, 0x2C] ∧
    Config.cfg.txNamed = [0x30, 0x31, 0x32, 0x33, 0x34, 0x35] ∧ Config.cfg.aTxd0 = 0x36 ∧
    Config.cfg.rxNamed = [0x60, 0x61, 0x62, 0x63, 0x64, 0x65] ∧ Config.cfg.aRxd0 = 0x66 ∧
    Config.cfg.txreq = 0x08 ∧ Config.cfg.fill = 0x00 ∧
    (∀ b : Byte, Config.cfg.isNormal b = (!b.getLsbD 7 && !b.getLsbD 6 && !b.getLsbD 5)) ∧
    Config.wf Config.cfg = true

/-! ### The frame procedure -/

/-- The bus answers each slot with the next reply of the environment, or with a free draw when none is left (R51,
assumption 5). F2 (R80): a transmit slot of RST, RD or WR that does not fail sends its byte and goes to the next slot. F3
(R80, R82): the third slot of RD latches the byte on MISO into `RDATA`. Nothing else changes. -/
def Obligations.SlotsExchangeBytes : Prop :=
  (∀ (s : State) (r : Reply) (rs : List Reply), s.chip = r :: rs → xfer s = (r, { s with chip := rs })) ∧
  (∀ s : State, s.chip = [] → xfer s = (Config.freeReply s.draws, { s with draws := s.draws + 1 })) ∧
  (∀ (t : Transaction) (k : Nat) (o b : Byte) (s s1 : State),
    t.out[k]? = some o → s.xport = .slot t k → xfer s = (.ok b, s1) →
      exec t.instr s = .next { s1 with xport := .slot t (k + 1), trace := .tx o :: s.trace }) ∧
  ∀ (a : Addr) (b : Byte) (s s1 : State),
    s.xport = .slot (.rd a) 2 → xfer s = (.ok b, s1) →
      exec (.rd a) s = .next { s1 with rdata := b, xport := .slot (.rd a) 3, trace := .rx b :: s.trace }

/-- R87: a failed slot, in any slot of any frame, sets `ERRF` and ends the exchange; `RDATA` keeps its value. -/
def Obligations.FailedSlotEndsExchange : Prop :=
  ∀ (t : Transaction) (k : Nat) (s s1 : State),
    k < t.slots → s.xport = .slot t k → xfer s = (.fail, s1) →
      exec t.instr s = .next { s1 with errf := true, xport := .desel t, trace := .xfail :: s.trace }

/-- F1, F4 and F5 (R80): where the sequencer's micro-step is that transaction (R74) and no frame is open, RST, RD or WR
asserts chip-select, clears `ERRF` and opens its frame; after the last slot the frame goes to T_DESEL; from T_DESEL
chip-select is released. -/
def Obligations.FrameOpensAndCloses : Prop :=
  (∀ (t : Transaction) (s : State), s.xport = .idle → currentTransaction Config.cfg s = some t →
    exec t.instr s = .next (opened t s)) ∧
  (∀ (t : Transaction) (s : State),
    exec t.instr { s with xport := .slot t t.slots } = .next { s with xport := .desel t }) ∧
  ∀ (t : Transaction) (s : State),
    exec t.instr { s with xport := .desel t } =
      .next { s with csN := .high, xport := .closed t, trace := .csH :: s.trace }

/-- F6 with `ERRF` = 1 (R80, R146, R155): the operation is aborted, `PHASE <- Uninitialized` if `OP` is Init and
unchanged otherwise, `OP <- Idle`, the response E_TRANSPORT; every latch keeps what it holds (the spec's
decision D27 for `PHASE`). With no operation in progress, where no run has a frame open (R38 (b)), there is nothing to
abort and nobody to answer (assumption 9). -/
def Obligations.TransportErrorAborts : Prop :=
  ∀ (t : Transaction) (s : State),
    (∀ l, exec t.instr { s with xport := .closed t, errf := true, pc := .init l } =
      .next { s with xport := .idle, errf := true, pc := .idle, phase := .uninitialized,
                     trace := .rsp .eTransport :: s.trace }) ∧
    (∀ l, exec t.instr { s with xport := .closed t, errf := true, pc := .send l } =
      .next { s with xport := .idle, errf := true, pc := .idle, trace := .rsp .eTransport :: s.trace }) ∧
    (∀ l, exec t.instr { s with xport := .closed t, errf := true, pc := .recv l } =
      .next { s with xport := .idle, errf := true, pc := .idle, trace := .rsp .eTransport :: s.trace }) ∧
    exec t.instr { s with xport := .closed t, errf := true, pc := .idle } =
      .next { s with xport := .idle, errf := true, pc := .idle }

/-- R84: chip-select is released on every path. From any slot of an open frame, whatever the bus answers, the frame is
closed with chip-select high within the slots left and two more steps. The number of steps, all turns of the normal
context with no sample of the pin between them, is the model's (assumptions 4 and 7). -/
def Obligations.ReleaseGuaranteed : Prop :=
  ∀ (t : Transaction) (k : Nat) (s : State) (ms : List Move),
    s.xport = .slot t k → s.moves = List.replicate (t.slots - k + 2) .run ++ ms →
      ∃ m u, m ≤ t.slots - k + 2 ∧ Sys2Proof.core.run m s = .next u ∧ u.csN = .high ∧ u.xport = .closed t

/-- R81, R82, R83 from call to return, inside the expansions of R74: a micro-step that is RST, RD or WR, whose slots do
not fail, makes exactly its frame and goes on to the operation's next micro-step (`resume`); RD latches the byte of the
third slot into `RDATA`, RST and WR leave `RDATA`. They run nowhere else (R74): no command decodes to a transaction, and
a step that opens a frame is a step of an operation in progress whose micro-step is that transaction. The number of
steps, all turns of the normal context with no sample of the pin between them, is the model's (assumptions 4 and 7). -/
def Obligations.TransactionsRunToTheirEnd : Prop :=
  (∀ (t : Transaction) (bs : List Byte) (s : State) (ms : List Move) (rest : List Reply),
    currentTransaction Config.cfg s = some t → bs.length = t.slots → s.xport = .idle →
      s.moves = List.replicate (t.slots + 4) .run ++ ms → s.chip = bs.map Reply.ok ++ rest →
        Sys2Proof.core.run (t.slots + 4) s =
          resume { s with moves := ms, chip := rest, csN := .high, errf := false, xport := .idle,
                          rdata := rdataAfter t (bs.getLastD 0) s.rdata,
                          cnt := if s.pc = .send .s1 then s.cnt + 1 else s.cnt,
                          trace := frameEvents t (bs.getLastD 0) ++ s.trace }) ∧
  (∀ (p : CmdPort) (t : Transaction), decode (.command p) ≠ .ok t.instr) ∧
  ∀ (t : Transaction) (s u : State), step s = .next u → s.openTransaction = none → u.openTransaction = some t →
    s.pc ≠ .idle ∧ currentTransaction Config.cfg s = some t

/-- A micro-step of INIT, SEND or RECV that is a transaction (R104, R118, R136) makes exactly that frame, and its label
stays until the frame is closed; S1 also counts the poll (R111). That the count happens at F1 is assumption 4. The
number of steps, all turns of the normal context with no sample of the pin between them, is the model's (assumptions 4
and 7). -/
def Obligations.MicroStepTransactionRuns : Prop :=
  ∀ (t : Transaction) (bs : List Byte) (s : State) (ms : List Move) (rest : List Reply),
    currentTransaction Config.cfg s = some t → bs.length = t.slots → s.xport = .idle →
      s.moves = List.replicate (t.slots + 3) .run ++ ms → s.chip = bs.map Reply.ok ++ rest →
        Sys2Proof.core.run (t.slots + 3) s =
          .next { s with moves := ms, chip := rest, csN := .high, errf := false, xport := .closed t,
                         rdata := rdataAfter t (bs.getLastD 0) s.rdata,
                         cnt := if s.pc = .send .s1 then s.cnt + 1 else s.cnt,
                         trace := frameEvents t (bs.getLastD 0) ++ s.trace }

/-- R85: while a frame is open, or closed and not yet returned from, no other transaction and no controller operation
takes a step. -/
def Obligations.NoNesting : Prop :=
  ∀ (t t' : Transaction) (s : State), s.openTransaction = some t' →
    (t ≠ t' → exec t.instr s = .refused .frameOpen) ∧
    (∀ r, (s.op = .idle ∨ s.op = .init) → exec (.init r) s = .refused .frameOpen) ∧
    (∀ i n d, (s.op = .idle ∨ s.op = .send) → exec (.send i n d) s = .refused .frameOpen) ∧
    ∀ i, (s.op = .idle ∨ s.op = .recv) → exec (.recv i) s = .refused .frameOpen

/-- Frame of RST, RD, WR at every step of theirs: the flag, the operand latches, the triple, the poll counter, the pin
memory and the environment's moves and commands stay; RST and WR leave `RDATA`; `IDX`, `RXLEN`, `RXBUF` and the program
counter change only at the return F6; `PHASE` changes only where INIT is aborted. That `CNT` is not written by the
transaction of S1, and `IDX`, `RXLEN` and `RXBUF` only at F6, is assumption 4. -/
def Obligations.TransactionFrame : Prop :=
  ∀ (t : Transaction) (s u : State), exec t.instr s = .next u →
    (u.rxpend = s.rxpend ∧ u.rate = s.rate ∧ u.cnfv = s.cnfv ∧ u.id = s.id ∧ u.len = s.len ∧ u.txbuf = s.txbuf ∧
      u.cnt = s.cnt ∧ u.intPrev = s.intPrev ∧ u.moves = s.moves ∧ u.port = s.port) ∧
    ((∀ a, t ≠ .rd a) → u.rdata = s.rdata) ∧
    (s.xport ≠ .closed t → u.idx = s.idx ∧ u.rxlen = s.rxlen ∧ u.rxbuf = s.rxbuf ∧ u.pc = s.pc ∧ u.phase = s.phase) ∧
    (u.phase = s.phase ∨ (s.op = .init ∧ s.errf = true ∧ u.phase = .uninitialized ∧ u.pc = .idle))

/-! ### INIT -/

/-- R95: INIT is accepted when `OP` is Idle, in any `PHASE`: `RATE` latched, `OP <- Init`, `STEP <- I0`, `PHASE <-
Uninitialized` (the spec's decision D35); `RXPEND` and every other register stay. -/
def Obligations.InitAccepted : Prop :=
  ∀ (r : RateName) (s : State),
    exec (.init r) { s with pc := .idle, xport := .idle } =
      .next { s with pc := .init .i0, xport := .idle, rate := r, phase := .uninitialized,
                     trace := .cmd (.init r) :: s.trace }

/-- R96, R97: step I0 is one RST transaction, for every rate name; step I1 waits `T_SETTLE_MS` = 100 ms (event DLY(100)),
issues no transaction, then enters Configuring. -/
def Obligations.InitResetsAndSettles : Prop :=
  (∀ (r : RateName) (s : State),
    exec (.init r) { s with pc := .init .i0, xport := .idle } =
      .next (opened .rst { s with pc := .init .i0, xport := .idle })) ∧
  (∀ s : State,
    exec .rst { s with pc := .init .i0, xport := .closed .rst, errf := false } =
      .next { s with pc := .init .i1, xport := .idle, errf := false }) ∧
  ∀ (r : RateName) (s : State),
    exec (.init r) { s with pc := .init .i1, xport := .idle } =
      .next { s with pc := .init .i2, xport := .idle, phase := .configuring, trace := .dly 100 :: s.trace }

/-- R98: step I2 looks `RATE` up, issues no transaction, and either latches the triple or raises UnknownBitRate: response
E_UNKNOWN_RATE, `PHASE <- Uninitialized` (the spec's decision D27), `OP <- Idle`, no default. -/
def Obligations.InitLooksUpTheRate : Prop :=
  ∀ (r : RateName) (s : State),
    exec (.init r) { s with pc := .init .i2, xport := .idle } =
      match Config.cfg.openF.rateTable.lookup s.rate with
      | some c => .next { s with pc := .init .i3, xport := .idle, cnfv := c }
      | none =>
        .next { s with pc := .idle, xport := .idle, phase := .uninitialized, trace := .rsp .eUnknownRate :: s.trace }

/-- R99: steps I3 to I5 write c1, c2, c3 of `CNFV` to `A_CNF1`, `A_CNF2`, `A_CNF3`, in that order (the
spec's decision D9), each step after the one before has returned. -/
def Obligations.InitWritesBitTiming : Prop :=
  (∀ (r : RateName) (s : State),
    exec (.init r) { s with pc := .init .i3, xport := .idle } =
      .next (opened (.wr Config.cfg.aCnf1 s.cnfv.c1) { s with pc := .init .i3, xport := .idle }) ∧
    exec (.init r) { s with pc := .init .i4, xport := .idle } =
      .next (opened (.wr Config.cfg.aCnf2 s.cnfv.c2) { s with pc := .init .i4, xport := .idle }) ∧
    exec (.init r) { s with pc := .init .i5, xport := .idle } =
      .next (opened (.wr Config.cfg.aCnf3 s.cnfv.c3) { s with pc := .init .i5, xport := .idle })) ∧
    ∀ (a : Addr) (v : Byte) (s : State),
      exec (.wr a v) { s with pc := .init .i3, xport := .closed (.wr a v), errf := false } =
        .next { s with pc := .init .i4, xport := .idle, errf := false } ∧
      exec (.wr a v) { s with pc := .init .i4, xport := .closed (.wr a v), errf := false } =
        .next { s with pc := .init .i5, xport := .idle, errf := false } ∧
      exec (.wr a v) { s with pc := .init .i5, xport := .closed (.wr a v), errf := false } =
        .next { s with pc := .init (.i6 0), xport := .idle, errf := false }

/-- R100: step I6 writes the entries of `INIT_SETUP` in order, one transaction each, and goes on to I7 after the last. -/
def Obligations.InitWritesSetup : Prop :=
  ∀ (r : RateName) (j : Nat) (s : State),
    (∀ (h : j < Config.cfg.openF.initSetup.length),
      exec (.init r) { s with pc := .init (.i6 j), xport := .idle } =
        .next (opened (.wr Config.cfg.openF.initSetup[j].1 Config.cfg.openF.initSetup[j].2)
          { s with pc := .init (.i6 j), xport := .idle })) ∧
    (Config.cfg.openF.initSetup.length ≤ j →
      exec (.init r) { s with pc := .init (.i6 j), xport := .idle } =
        .next { s with pc := .init .i7, xport := .idle }) ∧
    ∀ a v,
      exec (.wr a v) { s with pc := .init (.i6 j), xport := .closed (.wr a v), errf := false } =
        .next { s with pc := .init (.i6 (j + 1)), xport := .idle, errf := false }

/-- R101: steps I7 and I8 write 0x00 to the interrupt-flag register and then 0x01 to the interrupt-enable register (the
spec's decision D19). R102: I9 writes `MODE_REQ` to the mode-control register, I10 reads the status register once, I11
writes `MODE_REQ` again exactly when the status byte does not show normal mode, and there is no second status read. -/
def Obligations.InitArmsAndRequestsMode : Prop :=
  (∀ (r : RateName) (s : State),
    exec (.init r) { s with pc := .init .i7, xport := .idle } =
      .next (opened (.wr Config.cfg.aIntf 0x00) { s with pc := .init .i7, xport := .idle }) ∧
    exec (.init r) { s with pc := .init .i8, xport := .idle } =
      .next (opened (.wr Config.cfg.aInte 0x01) { s with pc := .init .i8, xport := .idle }) ∧
    exec (.init r) { s with pc := .init .i9, xport := .idle } =
      .next (opened (.wr Config.cfg.aCtrl Config.cfg.openF.modeReq) { s with pc := .init .i9, xport := .idle }) ∧
    exec (.init r) { s with pc := .init .i10, xport := .idle } =
      .next (opened (.rd Config.cfg.aStat) { s with pc := .init .i10, xport := .idle }) ∧
    exec (.init r) { s with pc := .init .i11, xport := .idle } =
      if Config.cfg.isNormal s.rdata then .next { s with pc := .init .i12, xport := .idle }
      else .next (opened (.wr Config.cfg.aCtrl Config.cfg.openF.modeReq) { s with pc := .init .i11, xport := .idle })) ∧
  ∀ (a : Addr) (v : Byte) (s : State),
    exec (.wr a v) { s with pc := .init .i7, xport := .closed (.wr a v), errf := false } =
      .next { s with pc := .init .i8, xport := .idle, errf := false } ∧
    exec (.wr a v) { s with pc := .init .i8, xport := .closed (.wr a v), errf := false } =
      .next { s with pc := .init .i9, xport := .idle, errf := false } ∧
    exec (.wr a v) { s with pc := .init .i9, xport := .closed (.wr a v), errf := false } =
      .next { s with pc := .init .i10, xport := .idle, errf := false } ∧
    exec (.rd a) { s with pc := .init .i10, xport := .closed (.rd a), errf := false } =
      .next { s with pc := .init .i11, xport := .idle, errf := false } ∧
    exec (.wr a v) { s with pc := .init .i11, xport := .closed (.wr a v), errf := false } =
      .next { s with pc := .init .i12, xport := .idle, errf := false }

/-- R103: step I12 completes INIT, whether or not the chip confirmed normal mode: `PHASE <- Normal`, `OP <- Idle`,
response OK. -/
def Obligations.InitCompletes : Prop :=
  ∀ (r : RateName) (s : State),
    exec (.init r) { s with pc := .init .i12, xport := .idle } =
      .next { s with pc := .idle, xport := .idle, phase := .normal, trace := .rsp .ok :: s.trace }

/-- The source's second testable property (95 E2) as a whole run: INIT with a name that is no key, on a bus that does
not fail and with no edge, is `CMD, [C0], DLY(100), RSP(E_UNKNOWN_RATE)`, and leaves the block idle and Uninitialized
(the spec's decision D27). The number of steps, all turns of the normal context with no sample of the pin between them,
is the model's (assumptions 4 and 7). -/
def Obligations.UnknownRateRun : Prop :=
  ∀ (p : CmdPort) (b : Byte) (s : State) (ps : List CmdPort) (ms : List Move) (rest : List Reply),
    Config.cfg.lookup p.rate = none → p.op = 0b00 → s.pc = .idle → s.xport = .idle → s.port = p :: ps →
      s.moves = List.replicate 8 .run ++ ms → s.chip = .ok b :: rest →
        Sys2Proof.core.run 8 s =
          .next { s with port := ps, moves := ms, chip := rest, csN := .high, errf := false, rate := p.rate,
                         phase := .uninitialized,
                         trace := .rsp .eUnknownRate :: .dly 100 :: .csH :: .tx 0xC0 :: .csL ::
                           .cmd (.init p.rate) :: s.trace }

/-- The source's first testable property (95 E1) and R104 as a whole run: INIT with a name of the table, on a bus that
does not fail and with no edge, resets, settles, writes exactly the triple of that name and the setup list, arms the
interrupt, requests the mode, requests it again exactly when the status read does not show normal mode, and answers OK
either way. The order of the three timing writes, the test for normal mode and the two arming bytes are the spec's
decisions D9, D18 and D19; the setup list is open (D17, assumption 2). The number of steps, all turns of the normal
context with no sample of the pin between them, is the model's (assumptions 4 and 7). -/
def Obligations.InitRun : Prop :=
  ∀ (p : CmdPort) (v : Triple) (bs : List Byte) (d : Byte) (s : State) (ps : List CmdPort) (ms : List Move)
    (rest : List Reply),
    Config.cfg.lookup p.rate = some v → p.op = 0b00 → s.pc = .idle → s.xport = .idle → s.port = p :: ps →
      bs.length = 1 + 3 * (7 + Config.cfg.openF.initSetup.length + if inNormalMode Config.cfg d then 0 else 1) →
        bs.getD (3 + 3 * (6 + Config.cfg.openF.initSetup.length)) 0 = d →
          s.moves =
              List.replicate (initSteps Config.cfg.openF.initSetup.length (inNormalMode Config.cfg d)) .run ++ ms →
            s.chip = bs.map Reply.ok ++ rest →
              ∃ u, Sys2Proof.core.run (initSteps Config.cfg.openF.initSetup.length (inNormalMode Config.cfg d)) s = .next u ∧
                u.pc = .idle ∧ u.xport = .idle ∧ u.csN = .high ∧ u.phase = .normal ∧ u.rxpend = s.rxpend ∧
                u.cnfv = v ∧ u.port = ps ∧ u.moves = ms ∧ u.chip = rest ∧
                u.trace = initTrace Config.cfg v d ++ .cmd (.init p.rate) :: s.trace

/-- Frame of INIT, SEND and RECV at every step of their own. INIT neither sets nor clears `RXPEND` (R95); SEND writes
neither `RXPEND` nor `PHASE` (R110); RECV does not write `PHASE` and never sets `RXPEND` (R125). None of them writes
`RDATA`, `RXLEN`, `RXBUF`, `IDX` or the pin memory itself (their transactions do, at F3 and F6), nor the operands,
counters and triple of the others, nor what the environment holds. That `IDX`, `RXLEN` and `RXBUF` are written at the F6
of a transaction, and not in a step of SEND or RECV, is assumption 4. -/
def Obligations.ControllerOperationFrames : Prop :=
  (∀ (r : RateName) (s u : State), exec (.init r) s = .next u →
    u.rxpend = s.rxpend ∧ u.rdata = s.rdata ∧ u.id = s.id ∧ u.len = s.len ∧ u.txbuf = s.txbuf ∧ u.cnt = s.cnt ∧
      u.idx = s.idx ∧ u.rxlen = s.rxlen ∧ u.rxbuf = s.rxbuf ∧ u.intPrev = s.intPrev ∧ u.moves = s.moves ∧
      u.port = s.port ∧ u.chip = s.chip ∧ u.draws = s.draws) ∧
  (∀ (i : BitVec 11) (n : BitVec 4) (d : Buf) (s u : State), exec (.send i n d) s = .next u →
    u.phase = s.phase ∧ u.rxpend = s.rxpend ∧ u.rdata = s.rdata ∧ u.rate = s.rate ∧ u.cnfv = s.cnfv ∧ u.idx = s.idx ∧
      u.rxlen = s.rxlen ∧ u.rxbuf = s.rxbuf ∧ u.intPrev = s.intPrev ∧ u.moves = s.moves ∧ u.port = s.port ∧
      u.chip = s.chip ∧ u.draws = s.draws) ∧
  ∀ (i : BitVec 11) (s u : State), exec (.recv i) s = .next u →
    u.phase = s.phase ∧ (u.rxpend = true → s.rxpend = true) ∧ u.rdata = s.rdata ∧ u.rate = s.rate ∧ u.cnfv = s.cnfv ∧
      u.len = s.len ∧ u.txbuf = s.txbuf ∧ u.cnt = s.cnt ∧ u.idx = s.idx ∧ u.rxlen = s.rxlen ∧ u.rxbuf = s.rxbuf ∧
      u.intPrev = s.intPrev ∧ u.moves = s.moves ∧ u.port = s.port ∧ u.chip = s.chip ∧ u.draws = s.draws

/-! ### SEND -/

/-- R110, R27: SEND is accepted when `OP` is Idle, `PHASE` is Normal and the length is at most 8: `ID`, `LEN` and the
payload bytes below the length are latched, the others keep what they hold; `OP <- Send`, `STEP <- S0`. -/
def Obligations.SendAccepted : Prop :=
  ∀ (i : BitVec 11) (n : BitVec 4) (d : Buf) (s : State), n.toNat ≤ 8 →
    ∃ b : Buf,
      exec (.send i n d) { s with pc := .idle, xport := .idle, phase := .normal } =
        .next { s with pc := .send .s0, xport := .idle, phase := .normal, id := i, len := n, txbuf := b,
                       trace := .cmd (.send i ((bufList d).take n.toNat)) :: s.trace } ∧
      ∀ k, k < 8 → bufGet b k = if k < n.toNat then bufGet d k else bufGet s.txbuf k

/-- R159, R120: on an idle block SEND is refused outside `PHASE` = Normal and with a length of 9 to 15, RECV outside
`PHASE` = Normal. A command of another operation presented to a busy block is refused. RST, RD and WR are
refused where the micro-step in progress is not that transaction (R74). The outcome is the refusal of R165, the spec's
decision D26. Where both grounds to refuse SEND hold, the name notNormal is the model's choice (assumption 24). -/
def Obligations.RefusedCommands : Prop :=
  (∀ (i : BitVec 11) (n : BitVec 4) (d : Buf) (s : State), s.phase ≠ .normal →
    exec (.send i n d) { s with pc := .idle, xport := .idle } = .refused .notNormal) ∧
  (∀ (i : BitVec 11) (n : BitVec 4) (d : Buf) (s : State), 8 < n.toNat →
    exec (.send i n d) { s with pc := .idle, xport := .idle, phase := .normal } = .refused .lengthOver8) ∧
  (∀ (i : BitVec 11) (s : State), s.phase ≠ .normal →
    exec (.recv i) { s with pc := .idle, xport := .idle } = .refused .notNormal) ∧
  (∀ (r : RateName) (s : State), s.op = .send ∨ s.op = .recv → exec (.init r) s = .refused .busy) ∧
  (∀ (i : BitVec 11) (n : BitVec 4) (d : Buf) (s : State), s.op = .init ∨ s.op = .recv →
    exec (.send i n d) s = .refused .busy) ∧
  (∀ (i : BitVec 11) (s : State), s.op = .init ∨ s.op = .send → exec (.recv i) s = .refused .busy) ∧
  ∀ (t : Transaction) (s : State), s.xport = .idle → currentTransaction Config.cfg s ≠ some t →
    exec t.instr s = .refused .outsideExpansion

/-- R111: the transmit poll S0 to S3. S0 clears `CNT`; S1 counts and reads the transmit-control register; S2 goes to S4
when the bit is clear and to S3 when it is set; S3 waits 1 ms and goes to S1 while `CNT` < 50, else to S4. That S1
counts in the step that opens its frame is assumption 4. -/
def Obligations.SendPolls : Prop :=
  ∀ (i : BitVec 11) (n : BitVec 4) (d : Buf) (a : Addr) (s : State),
    exec (.send i n d) { s with pc := .send .s0, xport := .idle } =
      .next { s with pc := .send .s1, xport := .idle, cnt := 0 } ∧
    exec (.send i n d) { s with pc := .send .s1, xport := .idle } =
      .next (opened (.rd Config.cfg.aTxctrl) { s with pc := .send .s1, xport := .idle, cnt := s.cnt + 1 }) ∧
    exec (.rd a) { s with pc := .send .s1, xport := .closed (.rd a), errf := false } =
      .next { s with pc := .send .s2, xport := .idle, errf := false } ∧
    exec (.send i n d) { s with pc := .send .s2, xport := .idle } =
      .next { s with pc := .send (if s.rdata &&& Config.cfg.txreq = 0 then .s4 else .s3), xport := .idle } ∧
    exec (.send i n d) { s with pc := .send .s3, xport := .idle } =
      .next { s with pc := .send (if s.cnt.toNat < 50 then .s1 else .s4), xport := .idle, trace := .dly 1 :: s.trace }

/-- R111, R112 and the source's fourth testable property (95 E4) as a run of the poll loop: if the next `n` reads of the
transmit-control register all show the request bit set, `n` at most 50, SEND issues exactly `n` reads and `n` delays of
1 ms (the last one after the last read: the spec's decision D16), and then polls again for `n` below 50 and goes on to
write the frame for `n` = 50, without a response. The number of steps, all turns of the normal context with no sample of
the pin between them, is the model's (assumptions 4 and 7). -/
def Obligations.PollBudgetRun : Prop :=
  ∀ (n : Nat) (bs : List (Byte × Byte × Byte)) (s : State) (ms : List Move) (rest : List Reply),
    n ≤ 50 → bs.length = n → (∀ b ∈ bs, busy Config.cfg b.2.2 = true) → s.pc = .send .s1 → s.xport = .idle → s.cnt = 0 →
      s.moves = List.replicate (9 * n) .run ++ ms →
        s.chip = bs.flatMap (fun b => [Reply.ok b.1, Reply.ok b.2.1, Reply.ok b.2.2]) ++ rest →
          ∃ u, Sys2Proof.core.run (9 * n) s = .next u ∧ u.pc = .send (if n < 50 then .s1 else .s4) ∧ u.xport = .idle ∧
            u.cnt.toNat = n ∧ u.moves = ms ∧ u.chip = rest ∧ u.phase = s.phase ∧ u.rxpend = s.rxpend ∧
            u.trace = pollTrace Config.cfg (bs.map fun b => b.2.2) ++ s.trace

/-- R113, R114, R115: steps S4 to S8 write the identifier, high register first, then 0 to both extended-identifier
registers, then the length; then `IDX <- 0`. The order of the identifier registers is the spec's decision D15. That
`IDX` is cleared in the step in which the transaction of S8 returns is assumption 4. -/
def Obligations.SendLoadsHeader : Prop :=
  (∀ (i : BitVec 11) (n : BitVec 4) (d : Buf) (s : State),
    exec (.send i n d) { s with pc := .send .s4, xport := .idle } =
      .next (opened (.wr Config.cfg.aTxsidh (s.id.extractLsb' 3 8)) { s with pc := .send .s4, xport := .idle }) ∧
    exec (.send i n d) { s with pc := .send .s5, xport := .idle } =
      .next (opened (.wr Config.cfg.aTxsidl (s.id.extractLsb' 0 3 ++ 0b00000#5))
        { s with pc := .send .s5, xport := .idle }) ∧
    exec (.send i n d) { s with pc := .send .s6, xport := .idle } =
      .next (opened (.wr Config.cfg.aTxeid8 0x00) { s with pc := .send .s6, xport := .idle }) ∧
    exec (.send i n d) { s with pc := .send .s7, xport := .idle } =
      .next (opened (.wr Config.cfg.aTxeid0 0x00) { s with pc := .send .s7, xport := .idle }) ∧
    exec (.send i n d) { s with pc := .send .s8, xport := .idle } =
      .next (opened (.wr Config.cfg.aTxdlc (s.len.setWidth 8)) { s with pc := .send .s8, xport := .idle })) ∧
    ∀ (a : Addr) (v : Byte) (s : State),
      exec (.wr a v) { s with pc := .send .s4, xport := .closed (.wr a v), errf := false } =
        .next { s with pc := .send .s5, xport := .idle, errf := false } ∧
      exec (.wr a v) { s with pc := .send .s5, xport := .closed (.wr a v), errf := false } =
        .next { s with pc := .send .s6, xport := .idle, errf := false } ∧
      exec (.wr a v) { s with pc := .send .s6, xport := .closed (.wr a v), errf := false } =
        .next { s with pc := .send .s7, xport := .idle, errf := false } ∧
      exec (.wr a v) { s with pc := .send .s7, xport := .closed (.wr a v), errf := false } =
        .next { s with pc := .send .s8, xport := .idle, errf := false } ∧
      exec (.wr a v) { s with pc := .send .s8, xport := .closed (.wr a v), errf := false } =
        .next { s with pc := .send .s9, xport := .idle, errf := false, idx := 0 }

/-- R116: step S9 writes `TXBUF[IDX]` to `A_TXD0 + IDX` while `IDX` < `LEN` and counts `IDX` up; for no byte left it
goes to S10 without a write. The ascending order is the spec's decision D15; that the last return goes straight to S10
is assumption 23, from R118. That `IDX` counts up in the step in which the transaction returns is assumption 4. -/
def Obligations.SendWritesData : Prop :=
  (∀ (i : BitVec 11) (n : BitVec 4) (d : Buf) (b : Byte) (s : State),
    s.idx.toNat < s.len.toNat → bufGet s.txbuf s.idx.toNat = some b →
      exec (.send i n d) { s with pc := .send .s9, xport := .idle } =
        .next (opened (.wr (Config.cfg.aTxd0 + s.idx.setWidth 8) b) { s with pc := .send .s9, xport := .idle })) ∧
  (∀ (i : BitVec 11) (n : BitVec 4) (d : Buf) (s : State), s.len.toNat ≤ s.idx.toNat →
    exec (.send i n d) { s with pc := .send .s9, xport := .idle } =
      .next { s with pc := .send .s10, xport := .idle }) ∧
  ∀ (a : Addr) (v : Byte) (s : State), s.idx.toNat < 8 →
    exec (.wr a v) { s with pc := .send .s9, xport := .closed (.wr a v), errf := false } =
      .next { s with pc := .send (if s.idx.toNat + 1 < s.len.toNat then .s9 else .s10), xport := .idle, errf := false,
                     idx := s.idx + 1 }

/-- R117 and the end of R118: step S10 writes the byte with only the transmit-request bit to the transmit-control
register (the spec's decision D13), for every payload length; S11 completes with OK. -/
def Obligations.SendStartsAndCompletes : Prop :=
  ∀ (i : BitVec 11) (n : BitVec 4) (d : Buf) (a : Addr) (v : Byte) (s : State),
    exec (.send i n d) { s with pc := .send .s10, xport := .idle } =
      .next (opened (.wr Config.cfg.aTxctrl Config.cfg.txreq) { s with pc := .send .s10, xport := .idle }) ∧
    exec (.wr a v) { s with pc := .send .s10, xport := .closed (.wr a v), errf := false } =
      .next { s with pc := .send .s11, xport := .idle, errf := false } ∧
    exec (.send i n d) { s with pc := .send .s11, xport := .idle } =
      .next { s with pc := .idle, xport := .idle, trace := .rsp .ok :: s.trace }

/-- The source's third testable property (95 E3) as a whole run: a SEND of any identifier and any payload of length L,
on a bus that does not fail, with no edge, and with the first poll free, reads the transmit-control register once,
writes the header with the length L, exactly the L data bytes, and the transmit-request bit, and answers OK. The start
byte, the low bits of the identifier and the order of the writes are the spec's decisions D13, D14 and D15. The number
of steps, all turns of the normal context with no sample of the pin between them, is the model's (assumptions 4, 7 and
23). -/
def Obligations.SendRun : Prop :=
  ∀ (p : CmdPort) (bs : List Byte) (s : State) (ps : List CmdPort) (ms : List Move) (rest : List Reply),
    p.op = 0b01 → p.len.toNat ≤ 8 → s.phase = .normal → s.pc = .idle → s.xport = .idle → s.port = p :: ps →
      bs.length = 3 * (7 + p.len.toNat) → busy Config.cfg (bs.getD 2 0) = false →
        s.moves = List.replicate (sendSteps p.len.toNat) .run ++ ms → s.chip = bs.map Reply.ok ++ rest →
          ∃ u, Sys2Proof.core.run (sendSteps p.len.toNat) s = .next u ∧ u.pc = .idle ∧ u.xport = .idle ∧
            u.csN = .high ∧ u.phase = .normal ∧ u.rxpend = s.rxpend ∧ u.port = ps ∧ u.moves = ms ∧ u.chip = rest ∧
            u.trace = sendTrace Config.cfg p.id p.len ((bufList p.data).take p.len.toNat) (bs.getD 2 0) ++
              .cmd (.send p.id ((bufList p.data).take p.len.toNat)) :: s.trace

/-! ### RECV -/

/-- R125: RECV is accepted when `OP` is Idle and `PHASE` is Normal: `ID` latched, `OP <- Recv`, `STEP <- V0`. -/
def Obligations.RecvAccepted : Prop :=
  ∀ (i : BitVec 11) (s : State),
    exec (.recv i) { s with pc := .idle, xport := .idle, phase := .normal } =
      .next { s with pc := .recv .v0, xport := .idle, phase := .normal, id := i, trace := .cmd (.recv i) :: s.trace }

/-- R126, R127: V0 tests `RXPEND` and clears it in the same step. If it is 0 the result is NO_DATA at once; if it is 1 it
is 0 afterwards and V1 is next. That the flag is cleared here, at entry, is the spec's resolution C2 (90_conflicts.md). -/
def Obligations.RecvTestsAndClears : Prop :=
  ∀ (i : BitVec 11) (s : State),
    exec (.recv i) { s with pc := .recv .v0, xport := .idle, rxpend := false } =
      .next { s with pc := .idle, xport := .idle, rxpend := false, trace := .rsp .noData :: s.trace } ∧
    exec (.recv i) { s with pc := .recv .v0, xport := .idle, rxpend := true } =
      .next { s with pc := .recv .v1, xport := .idle, rxpend := false }

/-- R128: V1 and V2 write the identifier listened for to the receive identifier registers, high register first. R129: V3
reads the interrupt-flag register, V4 goes back to V3 while bit 0x01 is clear and on to V5 when it is set; no delay, no
count. The split and the missing delay are the spec's decisions D20 and D21. -/
def Obligations.RecvRearmsAndPolls : Prop :=
  ∀ (i : BitVec 11) (a : Addr) (v : Byte) (s : State),
    exec (.recv i) { s with pc := .recv .v1, xport := .idle } =
      .next (opened (.wr Config.cfg.aRxsidh (s.id.extractLsb' 3 8)) { s with pc := .recv .v1, xport := .idle }) ∧
    exec (.wr a v) { s with pc := .recv .v1, xport := .closed (.wr a v), errf := false } =
      .next { s with pc := .recv .v2, xport := .idle, errf := false } ∧
    exec (.recv i) { s with pc := .recv .v2, xport := .idle } =
      .next (opened (.wr Config.cfg.aRxsidl (s.id.extractLsb' 0 3 ++ 0b00000#5))
        { s with pc := .recv .v2, xport := .idle }) ∧
    exec (.wr a v) { s with pc := .recv .v2, xport := .closed (.wr a v), errf := false } =
      .next { s with pc := .recv .v3, xport := .idle, errf := false } ∧
    exec (.recv i) { s with pc := .recv .v3, xport := .idle } =
      .next (opened (.rd Config.cfg.aIntf) { s with pc := .recv .v3, xport := .idle }) ∧
    exec (.rd a) { s with pc := .recv .v3, xport := .closed (.rd a), errf := false } =
      .next { s with pc := .recv .v4, xport := .idle, errf := false } ∧
    exec (.recv i) { s with pc := .recv .v4, xport := .idle } =
      .next { s with pc := .recv (if s.rdata &&& 0x01 = 0 then .v3 else .v5), xport := .idle }

/-- R130: V5 reads the data-length-code register; `RXLEN` takes the whole byte and `IDX <- 0`. R140: V6 goes on to V7
when that byte is at most 8 and stops with RecvLengthOutOfRange when it is above (the spec's decision D22). That `RXLEN`
and `IDX` are written in the step in which the transaction of V5 returns is assumption 4. -/
def Obligations.RecvReadsAndChecksLength : Prop :=
  (∀ (i : BitVec 11) (a : Addr) (s : State),
    exec (.recv i) { s with pc := .recv .v5, xport := .idle } =
      .next (opened (.rd Config.cfg.aRxdlc) { s with pc := .recv .v5, xport := .idle }) ∧
    exec (.rd a) { s with pc := .recv .v5, xport := .closed (.rd a), errf := false } =
      .next { s with pc := .recv .v6, xport := .idle, errf := false, rxlen := s.rdata, idx := 0 }) ∧
  ∀ (i : BitVec 11) (s : State),
    (s.rxlen.toNat ≤ 8 → exec (.recv i) { s with pc := .recv .v6, xport := .idle } =
      .next { s with pc := .recv .v7, xport := .idle }) ∧
    (8 < s.rxlen.toNat → exec (.recv i) { s with pc := .recv .v6, xport := .idle } = .fault .recvLengthOutOfRange)

/-- R131: V7 reads `A_RXD0 + IDX` while `IDX` < `RXLEN`, stores the byte in `RXBUF[IDX]` and counts `IDX` up; for no
byte left it goes to V8 without a read. The ascending order is the spec's decision D15; that the last return goes
straight to V8 is assumption 23, from R136. That `RXBUF` and `IDX` are written in the step in which the transaction
returns is assumption 4. -/
def Obligations.RecvReadsData : Prop :=
  (∀ (i : BitVec 11) (s : State), s.idx.toNat < s.rxlen.toNat → s.idx.toNat < 8 →
    exec (.recv i) { s with pc := .recv .v7, xport := .idle } =
      .next (opened (.rd (Config.cfg.aRxd0 + s.idx.setWidth 8)) { s with pc := .recv .v7, xport := .idle })) ∧
  (∀ (i : BitVec 11) (s : State), s.rxlen.toNat ≤ s.idx.toNat →
    exec (.recv i) { s with pc := .recv .v7, xport := .idle } = .next { s with pc := .recv .v8, xport := .idle }) ∧
  ∀ (a : Addr) (s : State), s.idx.toNat < 8 →
    ∃ b : Buf,
      exec (.rd a) { s with pc := .recv .v7, xport := .closed (.rd a), errf := false } =
        .next { s with pc := .recv (if s.idx.toNat + 1 < s.rxlen.toNat then .v7 else .v8), xport := .idle,
                       errf := false, rxbuf := b, idx := s.idx + 1 } ∧
      ∀ k, bufGet b k = if k = s.idx.toNat then some s.rdata else bufGet s.rxbuf k

/-- R132, R133, R134: V8 clears the interrupt-flag register, V9 rewrites the enable register with 0x01, V10 and V11
restore the receive identifier registers to their configured default, in that order. That these defaults are the values
`INIT_SETUP` writes last is W7 of R10, the spec's decision D17, and holds through assumption 2. -/
def Obligations.RecvClearsAndRestores : Prop :=
  (∀ (i : BitVec 11) (s : State),
    exec (.recv i) { s with pc := .recv .v8, xport := .idle } =
      .next (opened (.wr Config.cfg.aIntf 0x00) { s with pc := .recv .v8, xport := .idle }) ∧
    exec (.recv i) { s with pc := .recv .v9, xport := .idle } =
      .next (opened (.wr Config.cfg.aInte 0x01) { s with pc := .recv .v9, xport := .idle }) ∧
    exec (.recv i) { s with pc := .recv .v10, xport := .idle } =
      .next (opened (.wr Config.cfg.aRxsidh Config.cfg.openF.rxSidhDef) { s with pc := .recv .v10, xport := .idle }) ∧
    exec (.recv i) { s with pc := .recv .v11, xport := .idle } =
      .next (opened (.wr Config.cfg.aRxsidl Config.cfg.openF.rxSidlDef) { s with pc := .recv .v11, xport := .idle })) ∧
  (∀ (a : Addr) (v : Byte) (s : State),
    exec (.wr a v) { s with pc := .recv .v8, xport := .closed (.wr a v), errf := false } =
      .next { s with pc := .recv .v9, xport := .idle, errf := false } ∧
    exec (.wr a v) { s with pc := .recv .v9, xport := .closed (.wr a v), errf := false } =
      .next { s with pc := .recv .v10, xport := .idle, errf := false } ∧
    exec (.wr a v) { s with pc := .recv .v10, xport := .closed (.wr a v), errf := false } =
      .next { s with pc := .recv .v11, xport := .idle, errf := false } ∧
    exec (.wr a v) { s with pc := .recv .v11, xport := .closed (.wr a v), errf := false } =
      .next { s with pc := .recv .v12, xport := .idle, errf := false }) ∧
  lastWrite Config.cfg.aRxsidh Config.cfg.openF.initSetup = some Config.cfg.openF.rxSidhDef ∧
  lastWrite Config.cfg.aRxsidl Config.cfg.openF.initSetup = some Config.cfg.openF.rxSidlDef

/-- R135: V12 completes RECV with the identifier the command carried, `RXLEN`, and the bytes of `RXBUF` below it
(the spec's decision D23). -/
def Obligations.RecvReturnsTheFrame : Prop :=
  ∀ (i : BitVec 11) (s : State),
    exec (.recv i) { s with pc := .recv .v12, xport := .idle } =
      .next { s with pc := .idle, xport := .idle,
                     trace := .rsp (.frame s.id (s.rxlen.setWidth 4) ((bufList s.rxbuf).take s.rxlen.toNat)) ::
                       s.trace }

/-- The source's fifth testable property (95 E5) as a whole run: RECV with `RXPEND` = 0 is `CMD, RSP(NO_DATA)`: no
frame, no delay, no byte of the bus consumed. The number of steps, all turns of the normal context with no sample of the
pin between them, is the model's (assumptions 4 and 7). -/
def Obligations.RecvFastPathRun : Prop :=
  ∀ (p : CmdPort) (s : State) (ps : List CmdPort) (ms : List Move),
    p.op = 0b10 → s.phase = .normal → s.pc = .idle → s.xport = .idle → s.rxpend = false → s.port = p :: ps →
      s.moves = .run :: .run :: ms →
        Sys2Proof.core.run 2 s =
          .next { s with port := ps, moves := ms, id := p.id,
                         trace := .rsp .noData :: .cmd (.recv p.id) :: s.trace }

/-- R129, R164: the flag loop has no bound. If every one of the next `n` reads of the flag register returns a byte with
bit 0x01 clear, RECV is at V3 again after `n` rounds of eight steps, busy, without a response, for every `n`. That no
delay stands between the reads is the spec's decision D21. The number of steps, all turns of the normal context with no
sample of the pin between them, is the model's (assumptions 4 and 7). -/
def Obligations.RecvLoopIsUnbounded : Prop :=
  ∀ (n : Nat) (bs : List (Byte × Byte × Byte)) (s : State) (ms : List Move) (rest : List Reply),
    bs.length = n → (∀ b ∈ bs, b.2.2 &&& 0x01 = 0) → s.pc = .recv .v3 → s.xport = .idle →
      s.moves = List.replicate (8 * n) .run ++ ms →
        s.chip = bs.flatMap (fun b => [Reply.ok b.1, Reply.ok b.2.1, Reply.ok b.2.2]) ++ rest →
          ∃ u, Sys2Proof.core.run (8 * n) s = .next u ∧ u.pc = .recv .v3 ∧ u.xport = .idle ∧ u.moves = ms ∧
            u.chip = rest ∧ u.trace = (bs.flatMap fun b => (frameEvents (.rd Config.cfg.aIntf) b.2.2).reverse).reverse ++ s.trace

/-- The source's sixth testable property (95 E6) and R136 as a whole run: RECV with `RXPEND` = 1, on a bus that does not
fail, with no edge, with the first flag read full and a length byte of at most 8, re-arms the identifier, reads exactly
that many bytes in ascending order, clears and re-enables the interrupt, restores the identifier registers, and answers
with those bytes; `RXPEND` is 0 afterwards. The identifier split, its low bits, the ascending order and the echoed
identifier are the spec's decisions D20, D14, D15 and D23. The number of steps, all turns of the normal context with no
sample of the pin between them, is the model's (assumptions 4, 7 and 23). -/
def Obligations.RecvRun : Prop :=
  ∀ (p : CmdPort) (hd tl : List Byte) (f n : Byte) (data : List (Byte × Byte × Byte)) (s : State) (ps : List CmdPort)
    (ms : List Move) (rest : List Reply),
    p.op = 0b10 → s.phase = .normal → s.pc = .idle → s.xport = .idle → s.rxpend = true → s.port = p :: ps →
      hd.length = 12 → hd.getD 8 0 = f → hd.getD 11 0 = n → tl.length = 12 → rxFull f = true → n.toNat ≤ 8 →
        data.length = n.toNat → s.moves = List.replicate (recvSteps n.toNat) .run ++ ms →
          s.chip = hd.map Reply.ok ++ data.flatMap (fun b => [Reply.ok b.1, Reply.ok b.2.1, Reply.ok b.2.2]) ++
              tl.map Reply.ok ++ rest →
            ∃ u, Sys2Proof.core.run (recvSteps n.toNat) s = .next u ∧ u.pc = .idle ∧ u.xport = .idle ∧ u.csN = .high ∧
              u.phase = .normal ∧ u.rxpend = false ∧ u.rxlen = n ∧ u.port = ps ∧ u.moves = ms ∧ u.chip = rest ∧
              u.trace = recvTrace Config.cfg p.id f n (data.map fun b => b.2.2) ++ .cmd (.recv p.id) :: s.trace

/-! ### IRQ and the pending flag -/

/-- R71: the interrupt event is selected by previous sample 1 and current sample 0, and by nothing else. R137: IRQ sets
`RXPEND`, emits IRQ, and changes nothing else, in every `PHASE` and every `OP` and also in the middle of a frame (the
spec's decision D25). R31: each sample of the pin sets `INT_PREV`; a falling edge runs IRQ, any other sample does nothing
else. -/
def Obligations.FallingEdgeSetsPendingOnly : Prop :=
  (∀ previous current : Level, decode (.edge previous current) = .ok .irq ↔ previous = .high ∧ current = .low) ∧
  (∀ s : State, exec .irq s = .next { s with rxpend := true, trace := .irq :: s.trace }) ∧
  ∀ (s : State) (ms : List Move) (l : Level),
    (s.intPrev = .high ∧ l = .low →
      step { s with moves := .sample l :: ms } = exec .irq { s with moves := ms, intPrev := l }) ∧
    (¬(s.intPrev = .high ∧ l = .low) →
      step { s with moves := .sample l :: ms } = .next { s with moves := ms, intPrev := l })

/-- R22, R53, R137: only IRQ and RECV at V0 touch `RXPEND`. Every other step of every operation does the same whatever the
flag holds, and leaves it: an interrupt before the step and one after it differ in the order of events only. -/
def Obligations.PendingFlagReadOnlyAtV0 : Prop :=
  ∀ (i : Instr) (s : State) (b : Bool),
    i ≠ .irq → ¬((∃ id, i = .recv id) ∧ s.pc = .recv .v0) →
      exec i { s with rxpend := b } = mapNext (fun u => { u with rxpend := b }) (exec i s)

/-- R153: once set, `RXPEND` is cleared by RECV's micro-step V0 only (and by a reset of the block): not by RST, INIT, SEND
or an error. -/
def Obligations.PendingFlagClearedOnlyAtV0 : Prop :=
  ∀ s u : State, step s = .next u → s.rxpend = true → u.rxpend = false →
    (s.pc = .recv .v0 ∧ s.xport = .idle ∧ u.pc = .recv .v1) ∨ (takeMove s).1 = .reset

/-! ### The step -/

/-- A step of the normal context on an idle block runs the next command of the port, refuses the reserved code (R72), and
waits when no command is presented; it runs the open transaction, or else the operation in progress. A word of the opcode
table, placed, is what the next step runs. -/
def Obligations.StepRunsWhatItFetches : Prop :=
  (∀ (s : State) (ms : List Move) (p : CmdPort) (ps : List CmdPort) (i : Instr), decode (.command p) = .ok i →
    step { s with moves := .run :: ms, xport := .idle, pc := .idle, port := p :: ps } =
      exec i { s with moves := ms, xport := .idle, pc := .idle, port := ps }) ∧
  (∀ (s : State) (ms : List Move) (p : CmdPort) (ps : List CmdPort), p.op = 0b11 →
    step { s with moves := .run :: ms, xport := .idle, pc := .idle, port := p :: ps } = .refused .reservedCommand) ∧
  (∀ (s : State) (ms : List Move),
    step { s with moves := .run :: ms, xport := .idle, pc := .idle, port := [] } =
      .next { s with moves := ms, xport := .idle, pc := .idle, port := [] }) ∧
  (∀ (s : State) (nbits w : Nat) (t : Transaction), decodeTableWord nbits w = some t.instr →
    step (s.withFetchWord nbits w) = exec t.instr { s.withFetchWord nbits w with moves := s.moves }) ∧
  (∀ (s : State) (nbits w : Nat) (i : Instr), decodeTableWord nbits w = some i → (∀ t : Transaction, i ≠ t.instr) →
    step (s.withFetchWord nbits w) = exec i { s with pc := .idle, xport := .idle }) ∧
  (∀ (s : State) (ms : List Move) (t : Transaction), s.openTransaction = some t →
    step { s with moves := .run :: ms } = exec t.instr { s with moves := ms }) ∧
  (∀ (s : State) (ms : List Move) (l : InitLabel),
    step { s with moves := .run :: ms, xport := .idle, pc := .init l } =
      exec (.init s.rate) { s with moves := ms, xport := .idle, pc := .init l }) ∧
  (∀ (s : State) (ms : List Move) (l : SendLabel),
    step { s with moves := .run :: ms, xport := .idle, pc := .send l } =
      exec (.send s.id s.len s.txbuf) { s with moves := ms, xport := .idle, pc := .send l }) ∧
  ∀ (s : State) (ms : List Move) (l : RecvLabel),
    step { s with moves := .run :: ms, xport := .idle, pc := .recv l } =
      exec (.recv s.id) { s with moves := ms, xport := .idle, pc := .recv l }

/-- R159: while the block is busy the command port is not sampled. -/
def Obligations.PortNotSampledWhileBusy : Prop :=
  ∀ s u : State, step s = .next u → s.pc ≠ .idle → u.port = s.port

/-- R13: each step of each operation appends at most one event to the trace, and takes none away. -/
def Obligations.TraceGrowsByOneEvent : Prop :=
  ∀ (i : Instr) (s u : State), exec i s = .next u → u.trace = s.trace ∨ ∃ e, u.trace = e :: s.trace

/-! ### Who writes which register -/

/-- R21: no operation other than INIT writes `PHASE`: a step of another operation, outside INIT, leaves it. -/
def Obligations.PhaseWrittenByInitOnly : Prop :=
  ∀ (i : Instr) (s u : State), exec i s = .next u → u.phase ≠ s.phase → (∃ r, i = .init r) ∨ s.op = .init

/-- R26: `RDATA` is written only by an RD, in the third slot of its frame, with the byte received there. -/
def Obligations.RdataWrittenByReadOnly : Prop :=
  ∀ (i : Instr) (s u : State), exec i s = .next u → u.rdata ≠ s.rdata →
    ∃ a, i = .rd a ∧ s.xport = .slot (.rd a) 2 ∧ u.trace = .rx u.rdata :: s.trace ∧ (xfer s).1 = .ok u.rdata

/-- R27: the operand latches are written only when a command is accepted; while an operation runs they hold, whatever the
command port carries. -/
def Obligations.LatchesHold : Prop :=
  ∀ (i : Instr) (s u : State), exec i s = .next u → s.pc ≠ .idle →
    u.rate = s.rate ∧ u.id = s.id ∧ u.len = s.len ∧ u.txbuf = s.txbuf

/-! ### Reset and invariants -/

/-- R36, R170: the reset state has the values R36 states (the spec's decision D24), and a reset of the block, from every
state, puts every register there, with no transaction, no delay and no event (95 Z-1). What R36 leaves unspecified is the
model's choice (assumption 3); that the trace starts anew, also where a frame is cut
off (95 Z-2 leaves that to the model), and the environment's lists stay is assumption 15. -/
def Obligations.ResetValues : Prop :=
  (State.reset.phase = .uninitialized ∧ State.reset.rxpend = false ∧ State.reset.csN = .high ∧
    State.reset.op = .idle ∧ State.reset.tp = .idle ∧ State.reset.errf = false ∧ State.reset.intPrev = .high ∧
    State.reset.observed = []) ∧
  ∀ (s : State) (ms : List Move),
    step { s with moves := .reset :: ms } =
      .next { State.reset with moves := ms, port := s.port, chip := s.chip, draws := s.draws }

/-- Every invariant below holds right after reset. -/
def Obligations.InvariantsHoldAtReset : Prop :=
  Gated State.reset ∧ PhaseTracksOperation State.reset ∧ CountersBounded State.reset ∧ TraceLegal State.reset ∧
    AddressesClosed State.reset

/-- R38 (a), (b), (c) are kept by every step. -/
def Obligations.GatingKept : Prop :=
  ∀ s u : State, Gated s → step s = .next u → Gated u

/-- `PHASE` follows the operation (R21, R95, R97, R103, R155), kept by every step. That INIT runs I0 and I1 in
Uninitialized, and ends an error there, is the spec's decisions D35 and D27. -/
def Obligations.PhaseTrackingKept : Prop :=
  ∀ s u : State, PhaseTracksOperation s → step s = .next u → PhaseTracksOperation u

/-- The bounds of R28 are kept by every step. -/
def Obligations.CounterBoundsKept : Prop :=
  ∀ s u : State, CountersBounded s → step s = .next u → CountersBounded u

/-- R88: the trace stays legal, at every step. -/
def Obligations.TraceLegalityKept : Prop :=
  ∀ s u : State, TraceLegal s → step s = .next u → TraceLegal u

/-- R55: no address outside the register table is ever put on the bus. -/
def Obligations.AddressClosureKept : Prop :=
  ∀ s u : State, Gated s → TraceLegal s → AddressesClosed s → step s = .next u → AddressesClosed u

/-- The one fault a step can raise from a state within the bounds is RECV's length fault, at V6 with a length byte above 8 (R140,
the spec's decision D22, assumption 22); the model's own fault of assumption 16 is excluded. -/
def Obligations.OnlyTheLengthFault : Prop :=
  ∀ (s : State) (f : Fault), CountersBounded s → step s = .fault f →
    f = .recvLengthOutOfRange ∧ s.pc = .recv .v6 ∧ 8 < s.rxlen.toNat
end

