-- ==== Sys2Proof/Laws/Config.lean ====
section
/-!
SUPPORT. What is known of the machine's configuration: that it is well formed, and so what W6 and W7 say of its OPEN
fields (spec 00_scope.md R10).
-/

namespace Sys2Proof.Config

/-- The configuration of the machine is well formed. -/
theorem cfg_wf : wf cfg = true := (@openFields ⟨openTWf⟩).property

/-- The seven checks of a well-formed configuration, one by one. -/
theorem wf_parts {c : Cfg} (h : wf c = true) :
    c.w1 sets = true ∧ c.w234 = true ∧ c.w5 nRates = true ∧ c.w6 sets = true ∧ c.w7 = true ∧ c.w8 rx0if = true := by
  simp only [wf, Bool.and_eq_true] at h
  obtain ⟨⟨⟨⟨⟨h1, h2⟩, h3⟩, h4⟩, h5⟩, h6⟩ := h
  exact ⟨h1, h2, h3, h4, h5, h6⟩

/-- W6: every write of `INIT_SETUP` is at a mailbox, filter or mask address. -/
theorem setup_address {w : Addr × Byte} (h : w ∈ cfg.openF.initSetup) : w.1 ∈ sets.sTx ++ sets.sRx ++ sets.sFm := by
  have h6 := (wf_parts cfg_wf).2.2.2.1
  simp only [Cfg.w6, Bool.and_eq_true, List.all_eq_true] at h6
  simpa using h6.1.1.1.1.1 w h

end Sys2Proof.Config
end

