-- ==== Sys2Proof/Laws/State.lean ====
section
/-!
SUPPORT. One lemma per field of the state for each named update: what the field holds afterwards. They keep later proofs
from unfolding a record update.
-/

namespace Sys2Proof.Machine

@[simp] theorem emit_phase (e : Event) (s : State) : (emit e s).phase = s.phase := rfl
@[simp] theorem emit_rxpend (e : Event) (s : State) : (emit e s).rxpend = s.rxpend := rfl
@[simp] theorem emit_csN (e : Event) (s : State) : (emit e s).csN = s.csN := rfl
@[simp] theorem emit_pc (e : Event) (s : State) : (emit e s).pc = s.pc := rfl
@[simp] theorem emit_xport (e : Event) (s : State) : (emit e s).xport = s.xport := rfl
@[simp] theorem emit_errf (e : Event) (s : State) : (emit e s).errf = s.errf := rfl
@[simp] theorem emit_rdata (e : Event) (s : State) : (emit e s).rdata = s.rdata := rfl
@[simp] theorem emit_rate (e : Event) (s : State) : (emit e s).rate = s.rate := rfl
@[simp] theorem emit_cnfv (e : Event) (s : State) : (emit e s).cnfv = s.cnfv := rfl
@[simp] theorem emit_id (e : Event) (s : State) : (emit e s).id = s.id := rfl
@[simp] theorem emit_len (e : Event) (s : State) : (emit e s).len = s.len := rfl
@[simp] theorem emit_txbuf (e : Event) (s : State) : (emit e s).txbuf = s.txbuf := rfl
@[simp] theorem emit_cnt (e : Event) (s : State) : (emit e s).cnt = s.cnt := rfl
@[simp] theorem emit_idx (e : Event) (s : State) : (emit e s).idx = s.idx := rfl
@[simp] theorem emit_rxlen (e : Event) (s : State) : (emit e s).rxlen = s.rxlen := rfl
@[simp] theorem emit_rxbuf (e : Event) (s : State) : (emit e s).rxbuf = s.rxbuf := rfl
@[simp] theorem emit_intPrev (e : Event) (s : State) : (emit e s).intPrev = s.intPrev := rfl
@[simp] theorem emit_trace (e : Event) (s : State) : (emit e s).trace = e :: s.trace := rfl
@[simp] theorem emit_moves (e : Event) (s : State) : (emit e s).moves = s.moves := rfl
@[simp] theorem emit_port (e : Event) (s : State) : (emit e s).port = s.port := rfl
@[simp] theorem emit_chip (e : Event) (s : State) : (emit e s).chip = s.chip := rfl
@[simp] theorem emit_draws (e : Event) (s : State) : (emit e s).draws = s.draws := rfl

@[simp] theorem goto_phase (p : Pc) (s : State) : (goto p s).phase = s.phase := rfl
@[simp] theorem goto_rxpend (p : Pc) (s : State) : (goto p s).rxpend = s.rxpend := rfl
@[simp] theorem goto_csN (p : Pc) (s : State) : (goto p s).csN = s.csN := rfl
@[simp] theorem goto_pc (p : Pc) (s : State) : (goto p s).pc = p := rfl
@[simp] theorem goto_xport (p : Pc) (s : State) : (goto p s).xport = s.xport := rfl
@[simp] theorem goto_errf (p : Pc) (s : State) : (goto p s).errf = s.errf := rfl
@[simp] theorem goto_rdata (p : Pc) (s : State) : (goto p s).rdata = s.rdata := rfl
@[simp] theorem goto_rate (p : Pc) (s : State) : (goto p s).rate = s.rate := rfl
@[simp] theorem goto_cnfv (p : Pc) (s : State) : (goto p s).cnfv = s.cnfv := rfl
@[simp] theorem goto_id (p : Pc) (s : State) : (goto p s).id = s.id := rfl
@[simp] theorem goto_len (p : Pc) (s : State) : (goto p s).len = s.len := rfl
@[simp] theorem goto_txbuf (p : Pc) (s : State) : (goto p s).txbuf = s.txbuf := rfl
@[simp] theorem goto_cnt (p : Pc) (s : State) : (goto p s).cnt = s.cnt := rfl
@[simp] theorem goto_idx (p : Pc) (s : State) : (goto p s).idx = s.idx := rfl
@[simp] theorem goto_rxlen (p : Pc) (s : State) : (goto p s).rxlen = s.rxlen := rfl
@[simp] theorem goto_rxbuf (p : Pc) (s : State) : (goto p s).rxbuf = s.rxbuf := rfl
@[simp] theorem goto_intPrev (p : Pc) (s : State) : (goto p s).intPrev = s.intPrev := rfl
@[simp] theorem goto_trace (p : Pc) (s : State) : (goto p s).trace = s.trace := rfl
@[simp] theorem goto_moves (p : Pc) (s : State) : (goto p s).moves = s.moves := rfl
@[simp] theorem goto_port (p : Pc) (s : State) : (goto p s).port = s.port := rfl
@[simp] theorem goto_chip (p : Pc) (s : State) : (goto p s).chip = s.chip := rfl
@[simp] theorem goto_draws (p : Pc) (s : State) : (goto p s).draws = s.draws := rfl

@[simp] theorem delay_phase (n : Nat) (s : State) : (delay n s).phase = s.phase := rfl
@[simp] theorem delay_rxpend (n : Nat) (s : State) : (delay n s).rxpend = s.rxpend := rfl
@[simp] theorem delay_csN (n : Nat) (s : State) : (delay n s).csN = s.csN := rfl
@[simp] theorem delay_pc (n : Nat) (s : State) : (delay n s).pc = s.pc := rfl
@[simp] theorem delay_xport (n : Nat) (s : State) : (delay n s).xport = s.xport := rfl
@[simp] theorem delay_errf (n : Nat) (s : State) : (delay n s).errf = s.errf := rfl
@[simp] theorem delay_rdata (n : Nat) (s : State) : (delay n s).rdata = s.rdata := rfl
@[simp] theorem delay_rate (n : Nat) (s : State) : (delay n s).rate = s.rate := rfl
@[simp] theorem delay_cnfv (n : Nat) (s : State) : (delay n s).cnfv = s.cnfv := rfl
@[simp] theorem delay_id (n : Nat) (s : State) : (delay n s).id = s.id := rfl
@[simp] theorem delay_len (n : Nat) (s : State) : (delay n s).len = s.len := rfl
@[simp] theorem delay_txbuf (n : Nat) (s : State) : (delay n s).txbuf = s.txbuf := rfl
@[simp] theorem delay_cnt (n : Nat) (s : State) : (delay n s).cnt = s.cnt := rfl
@[simp] theorem delay_idx (n : Nat) (s : State) : (delay n s).idx = s.idx := rfl
@[simp] theorem delay_rxlen (n : Nat) (s : State) : (delay n s).rxlen = s.rxlen := rfl
@[simp] theorem delay_rxbuf (n : Nat) (s : State) : (delay n s).rxbuf = s.rxbuf := rfl
@[simp] theorem delay_intPrev (n : Nat) (s : State) : (delay n s).intPrev = s.intPrev := rfl
@[simp] theorem delay_trace (n : Nat) (s : State) : (delay n s).trace = .dly n :: s.trace := rfl
@[simp] theorem delay_moves (n : Nat) (s : State) : (delay n s).moves = s.moves := rfl
@[simp] theorem delay_port (n : Nat) (s : State) : (delay n s).port = s.port := rfl
@[simp] theorem delay_chip (n : Nat) (s : State) : (delay n s).chip = s.chip := rfl
@[simp] theorem delay_draws (n : Nat) (s : State) : (delay n s).draws = s.draws := rfl

@[simp] theorem openFrame_phase (t : Transaction) (s : State) : (openFrame t s).phase = s.phase := rfl
@[simp] theorem openFrame_rxpend (t : Transaction) (s : State) : (openFrame t s).rxpend = s.rxpend := rfl
@[simp] theorem openFrame_csN (t : Transaction) (s : State) : (openFrame t s).csN = .low := rfl
@[simp] theorem openFrame_pc (t : Transaction) (s : State) : (openFrame t s).pc = s.pc := rfl
@[simp] theorem openFrame_xport (t : Transaction) (s : State) : (openFrame t s).xport = .slot t 0 := rfl
@[simp] theorem openFrame_errf (t : Transaction) (s : State) : (openFrame t s).errf = false := rfl
@[simp] theorem openFrame_rdata (t : Transaction) (s : State) : (openFrame t s).rdata = s.rdata := rfl
@[simp] theorem openFrame_rate (t : Transaction) (s : State) : (openFrame t s).rate = s.rate := rfl
@[simp] theorem openFrame_cnfv (t : Transaction) (s : State) : (openFrame t s).cnfv = s.cnfv := rfl
@[simp] theorem openFrame_id (t : Transaction) (s : State) : (openFrame t s).id = s.id := rfl
@[simp] theorem openFrame_len (t : Transaction) (s : State) : (openFrame t s).len = s.len := rfl
@[simp] theorem openFrame_txbuf (t : Transaction) (s : State) : (openFrame t s).txbuf = s.txbuf := rfl
@[simp] theorem openFrame_cnt (t : Transaction) (s : State) : (openFrame t s).cnt = s.cnt := rfl
@[simp] theorem openFrame_idx (t : Transaction) (s : State) : (openFrame t s).idx = s.idx := rfl
@[simp] theorem openFrame_rxlen (t : Transaction) (s : State) : (openFrame t s).rxlen = s.rxlen := rfl
@[simp] theorem openFrame_rxbuf (t : Transaction) (s : State) : (openFrame t s).rxbuf = s.rxbuf := rfl
@[simp] theorem openFrame_intPrev (t : Transaction) (s : State) : (openFrame t s).intPrev = s.intPrev := rfl
@[simp] theorem openFrame_trace (t : Transaction) (s : State) : (openFrame t s).trace = .csL :: s.trace := rfl
@[simp] theorem openFrame_moves (t : Transaction) (s : State) : (openFrame t s).moves = s.moves := rfl
@[simp] theorem openFrame_port (t : Transaction) (s : State) : (openFrame t s).port = s.port := rfl
@[simp] theorem openFrame_chip (t : Transaction) (s : State) : (openFrame t s).chip = s.chip := rfl
@[simp] theorem openFrame_draws (t : Transaction) (s : State) : (openFrame t s).draws = s.draws := rfl

@[simp] theorem accept_phase (c : Command) (p : Pc) (s : State) : (accept c p s).phase = s.phase := rfl
@[simp] theorem accept_rxpend (c : Command) (p : Pc) (s : State) : (accept c p s).rxpend = s.rxpend := rfl
@[simp] theorem accept_csN (c : Command) (p : Pc) (s : State) : (accept c p s).csN = s.csN := rfl
@[simp] theorem accept_pc (c : Command) (p : Pc) (s : State) : (accept c p s).pc = p := rfl
@[simp] theorem accept_xport (c : Command) (p : Pc) (s : State) : (accept c p s).xport = s.xport := rfl
@[simp] theorem accept_errf (c : Command) (p : Pc) (s : State) : (accept c p s).errf = s.errf := rfl
@[simp] theorem accept_rdata (c : Command) (p : Pc) (s : State) : (accept c p s).rdata = s.rdata := rfl
@[simp] theorem accept_rate (c : Command) (p : Pc) (s : State) : (accept c p s).rate = s.rate := rfl
@[simp] theorem accept_cnfv (c : Command) (p : Pc) (s : State) : (accept c p s).cnfv = s.cnfv := rfl
@[simp] theorem accept_id (c : Command) (p : Pc) (s : State) : (accept c p s).id = s.id := rfl
@[simp] theorem accept_len (c : Command) (p : Pc) (s : State) : (accept c p s).len = s.len := rfl
@[simp] theorem accept_txbuf (c : Command) (p : Pc) (s : State) : (accept c p s).txbuf = s.txbuf := rfl
@[simp] theorem accept_cnt (c : Command) (p : Pc) (s : State) : (accept c p s).cnt = s.cnt := rfl
@[simp] theorem accept_idx (c : Command) (p : Pc) (s : State) : (accept c p s).idx = s.idx := rfl
@[simp] theorem accept_rxlen (c : Command) (p : Pc) (s : State) : (accept c p s).rxlen = s.rxlen := rfl
@[simp] theorem accept_rxbuf (c : Command) (p : Pc) (s : State) : (accept c p s).rxbuf = s.rxbuf := rfl
@[simp] theorem accept_intPrev (c : Command) (p : Pc) (s : State) : (accept c p s).intPrev = s.intPrev := rfl
@[simp] theorem accept_trace (c : Command) (p : Pc) (s : State) : (accept c p s).trace = .cmd c :: s.trace := rfl
@[simp] theorem accept_moves (c : Command) (p : Pc) (s : State) : (accept c p s).moves = s.moves := rfl
@[simp] theorem accept_port (c : Command) (p : Pc) (s : State) : (accept c p s).port = s.port := rfl
@[simp] theorem accept_chip (c : Command) (p : Pc) (s : State) : (accept c p s).chip = s.chip := rfl
@[simp] theorem accept_draws (c : Command) (p : Pc) (s : State) : (accept c p s).draws = s.draws := rfl

@[simp] theorem complete_phase (r : Response) (s : State) : (complete r s).phase = s.phase := rfl
@[simp] theorem complete_rxpend (r : Response) (s : State) : (complete r s).rxpend = s.rxpend := rfl
@[simp] theorem complete_csN (r : Response) (s : State) : (complete r s).csN = s.csN := rfl
@[simp] theorem complete_pc (r : Response) (s : State) : (complete r s).pc = .idle := rfl
@[simp] theorem complete_xport (r : Response) (s : State) : (complete r s).xport = s.xport := rfl
@[simp] theorem complete_errf (r : Response) (s : State) : (complete r s).errf = s.errf := rfl
@[simp] theorem complete_rdata (r : Response) (s : State) : (complete r s).rdata = s.rdata := rfl
@[simp] theorem complete_rate (r : Response) (s : State) : (complete r s).rate = s.rate := rfl
@[simp] theorem complete_cnfv (r : Response) (s : State) : (complete r s).cnfv = s.cnfv := rfl
@[simp] theorem complete_id (r : Response) (s : State) : (complete r s).id = s.id := rfl
@[simp] theorem complete_len (r : Response) (s : State) : (complete r s).len = s.len := rfl
@[simp] theorem complete_txbuf (r : Response) (s : State) : (complete r s).txbuf = s.txbuf := rfl
@[simp] theorem complete_cnt (r : Response) (s : State) : (complete r s).cnt = s.cnt := rfl
@[simp] theorem complete_idx (r : Response) (s : State) : (complete r s).idx = s.idx := rfl
@[simp] theorem complete_rxlen (r : Response) (s : State) : (complete r s).rxlen = s.rxlen := rfl
@[simp] theorem complete_rxbuf (r : Response) (s : State) : (complete r s).rxbuf = s.rxbuf := rfl
@[simp] theorem complete_intPrev (r : Response) (s : State) : (complete r s).intPrev = s.intPrev := rfl
@[simp] theorem complete_trace (r : Response) (s : State) : (complete r s).trace = .rsp r :: s.trace := rfl
@[simp] theorem complete_moves (r : Response) (s : State) : (complete r s).moves = s.moves := rfl
@[simp] theorem complete_port (r : Response) (s : State) : (complete r s).port = s.port := rfl
@[simp] theorem complete_chip (r : Response) (s : State) : (complete r s).chip = s.chip := rfl
@[simp] theorem complete_draws (r : Response) (s : State) : (complete r s).draws = s.draws := rfl

@[simp] theorem leaveFrame_phase (s : State) : (leaveFrame s).phase = s.phase := rfl
@[simp] theorem leaveFrame_rxpend (s : State) : (leaveFrame s).rxpend = s.rxpend := rfl
@[simp] theorem leaveFrame_csN (s : State) : (leaveFrame s).csN = s.csN := rfl
@[simp] theorem leaveFrame_pc (s : State) : (leaveFrame s).pc = s.pc := rfl
@[simp] theorem leaveFrame_xport (s : State) : (leaveFrame s).xport = .idle := rfl
@[simp] theorem leaveFrame_errf (s : State) : (leaveFrame s).errf = s.errf := rfl
@[simp] theorem leaveFrame_rdata (s : State) : (leaveFrame s).rdata = s.rdata := rfl
@[simp] theorem leaveFrame_rate (s : State) : (leaveFrame s).rate = s.rate := rfl
@[simp] theorem leaveFrame_cnfv (s : State) : (leaveFrame s).cnfv = s.cnfv := rfl
@[simp] theorem leaveFrame_id (s : State) : (leaveFrame s).id = s.id := rfl
@[simp] theorem leaveFrame_len (s : State) : (leaveFrame s).len = s.len := rfl
@[simp] theorem leaveFrame_txbuf (s : State) : (leaveFrame s).txbuf = s.txbuf := rfl
@[simp] theorem leaveFrame_cnt (s : State) : (leaveFrame s).cnt = s.cnt := rfl
@[simp] theorem leaveFrame_idx (s : State) : (leaveFrame s).idx = s.idx := rfl
@[simp] theorem leaveFrame_rxlen (s : State) : (leaveFrame s).rxlen = s.rxlen := rfl
@[simp] theorem leaveFrame_rxbuf (s : State) : (leaveFrame s).rxbuf = s.rxbuf := rfl
@[simp] theorem leaveFrame_intPrev (s : State) : (leaveFrame s).intPrev = s.intPrev := rfl
@[simp] theorem leaveFrame_trace (s : State) : (leaveFrame s).trace = s.trace := rfl
@[simp] theorem leaveFrame_moves (s : State) : (leaveFrame s).moves = s.moves := rfl
@[simp] theorem leaveFrame_port (s : State) : (leaveFrame s).port = s.port := rfl
@[simp] theorem leaveFrame_chip (s : State) : (leaveFrame s).chip = s.chip := rfl
@[simp] theorem leaveFrame_draws (s : State) : (leaveFrame s).draws = s.draws := rfl

@[simp] theorem closeFrame_phase (t : Transaction) (s : State) : (closeFrame t s).phase = s.phase := rfl
@[simp] theorem closeFrame_rxpend (t : Transaction) (s : State) : (closeFrame t s).rxpend = s.rxpend := rfl
@[simp] theorem closeFrame_csN (t : Transaction) (s : State) : (closeFrame t s).csN = .high := rfl
@[simp] theorem closeFrame_pc (t : Transaction) (s : State) : (closeFrame t s).pc = s.pc := rfl
@[simp] theorem closeFrame_xport (t : Transaction) (s : State) : (closeFrame t s).xport = .closed t := rfl
@[simp] theorem closeFrame_errf (t : Transaction) (s : State) : (closeFrame t s).errf = s.errf := rfl
@[simp] theorem closeFrame_rdata (t : Transaction) (s : State) : (closeFrame t s).rdata = s.rdata := rfl
@[simp] theorem closeFrame_rate (t : Transaction) (s : State) : (closeFrame t s).rate = s.rate := rfl
@[simp] theorem closeFrame_cnfv (t : Transaction) (s : State) : (closeFrame t s).cnfv = s.cnfv := rfl
@[simp] theorem closeFrame_id (t : Transaction) (s : State) : (closeFrame t s).id = s.id := rfl
@[simp] theorem closeFrame_len (t : Transaction) (s : State) : (closeFrame t s).len = s.len := rfl
@[simp] theorem closeFrame_txbuf (t : Transaction) (s : State) : (closeFrame t s).txbuf = s.txbuf := rfl
@[simp] theorem closeFrame_cnt (t : Transaction) (s : State) : (closeFrame t s).cnt = s.cnt := rfl
@[simp] theorem closeFrame_idx (t : Transaction) (s : State) : (closeFrame t s).idx = s.idx := rfl
@[simp] theorem closeFrame_rxlen (t : Transaction) (s : State) : (closeFrame t s).rxlen = s.rxlen := rfl
@[simp] theorem closeFrame_rxbuf (t : Transaction) (s : State) : (closeFrame t s).rxbuf = s.rxbuf := rfl
@[simp] theorem closeFrame_intPrev (t : Transaction) (s : State) : (closeFrame t s).intPrev = s.intPrev := rfl
@[simp] theorem closeFrame_trace (t : Transaction) (s : State) : (closeFrame t s).trace = .csH :: s.trace := rfl
@[simp] theorem closeFrame_moves (t : Transaction) (s : State) : (closeFrame t s).moves = s.moves := rfl
@[simp] theorem closeFrame_port (t : Transaction) (s : State) : (closeFrame t s).port = s.port := rfl
@[simp] theorem closeFrame_chip (t : Transaction) (s : State) : (closeFrame t s).chip = s.chip := rfl
@[simp] theorem closeFrame_draws (t : Transaction) (s : State) : (closeFrame t s).draws = s.draws := rfl

@[simp] theorem takeInterrupt_phase (s : State) : (takeInterrupt s).phase = s.phase := rfl
@[simp] theorem takeInterrupt_rxpend (s : State) : (takeInterrupt s).rxpend = true := rfl
@[simp] theorem takeInterrupt_csN (s : State) : (takeInterrupt s).csN = s.csN := rfl
@[simp] theorem takeInterrupt_pc (s : State) : (takeInterrupt s).pc = s.pc := rfl
@[simp] theorem takeInterrupt_xport (s : State) : (takeInterrupt s).xport = s.xport := rfl
@[simp] theorem takeInterrupt_errf (s : State) : (takeInterrupt s).errf = s.errf := rfl
@[simp] theorem takeInterrupt_rdata (s : State) : (takeInterrupt s).rdata = s.rdata := rfl
@[simp] theorem takeInterrupt_rate (s : State) : (takeInterrupt s).rate = s.rate := rfl
@[simp] theorem takeInterrupt_cnfv (s : State) : (takeInterrupt s).cnfv = s.cnfv := rfl
@[simp] theorem takeInterrupt_id (s : State) : (takeInterrupt s).id = s.id := rfl
@[simp] theorem takeInterrupt_len (s : State) : (takeInterrupt s).len = s.len := rfl
@[simp] theorem takeInterrupt_txbuf (s : State) : (takeInterrupt s).txbuf = s.txbuf := rfl
@[simp] theorem takeInterrupt_cnt (s : State) : (takeInterrupt s).cnt = s.cnt := rfl
@[simp] theorem takeInterrupt_idx (s : State) : (takeInterrupt s).idx = s.idx := rfl
@[simp] theorem takeInterrupt_rxlen (s : State) : (takeInterrupt s).rxlen = s.rxlen := rfl
@[simp] theorem takeInterrupt_rxbuf (s : State) : (takeInterrupt s).rxbuf = s.rxbuf := rfl
@[simp] theorem takeInterrupt_intPrev (s : State) : (takeInterrupt s).intPrev = s.intPrev := rfl
@[simp] theorem takeInterrupt_trace (s : State) : (takeInterrupt s).trace = .irq :: s.trace := rfl
@[simp] theorem takeInterrupt_moves (s : State) : (takeInterrupt s).moves = s.moves := rfl
@[simp] theorem takeInterrupt_port (s : State) : (takeInterrupt s).port = s.port := rfl
@[simp] theorem takeInterrupt_chip (s : State) : (takeInterrupt s).chip = s.chip := rfl
@[simp] theorem takeInterrupt_draws (s : State) : (takeInterrupt s).draws = s.draws := rfl

end Sys2Proof.Machine
end

