-- ==== Sys2Proof/Laws/Ops.lean ====
section
/-!
SUPPORT. What each shared operation can do, said once: the byte slot, the choice of who moves, the abort procedure, and
the guard of the sequencer's micro-steps.
-/

namespace Sys2Proof.Machine

/-- A slot is answered by the reply list, or by a free draw when the list is used up. -/
theorem xfer_cases (s : State) :
    (∃ r rs, s.chip = r :: rs ∧ xfer s = (r, { s with chip := rs })) ∨
      (s.chip = [] ∧ xfer s = (Config.freeReply s.draws, { s with draws := s.draws + 1 })) := by
  unfold xfer
  cases h : s.chip with
  | nil => exact .inr ⟨rfl, rfl⟩
  | cons r rs => exact .inl ⟨r, rs, rfl, rfl⟩

/-- A byte slot changes nothing but the reply list and the counter of free draws. -/
theorem xfer_frame {s s1 : State} {r : Reply} (h : xfer s = (r, s1)) :
    ∃ c d, s1 = { s with chip := c, draws := d } := by
  rcases xfer_cases s with ⟨r', rs, -, h'⟩ | ⟨-, h'⟩ <;> rw [h'] at h <;> cases h
  · exact ⟨rs, s.draws, rfl⟩
  · exact ⟨s.chip, s.draws + 1, rfl⟩

/-- The next move is the head of the move list, or a free draw when the list is used up. -/
theorem takeMove_cases (s : State) :
    (∃ m ms, s.moves = m :: ms ∧ takeMove s = (m, { s with moves := ms })) ∨
      (s.moves = [] ∧ takeMove s = (Config.freeMove s.draws, { s with draws := s.draws + 1 })) := by
  unfold takeMove
  cases h : s.moves with
  | nil => exact .inr ⟨rfl, rfl⟩
  | cons m ms => exact .inl ⟨m, ms, rfl, rfl⟩

/-- Choosing who moves changes nothing but the move list and the counter of free draws. -/
theorem takeMove_frame {s s1 : State} {m : Move} (h : takeMove s = (m, s1)) :
    ∃ ms d, s1 = { s with moves := ms, draws := d } := by
  rcases takeMove_cases s with ⟨m', ms, -, h'⟩ | ⟨-, h'⟩ <;> rw [h'] at h <;> cases h
  · exact ⟨ms, s.draws, rfl⟩
  · exact ⟨s.moves, s.draws + 1, rfl⟩

/-- With a move at the head of the list, that is who moves. -/
theorem takeMove_cons {s : State} {m : Move} {ms : List Move} (h : s.moves = m :: ms) :
    takeMove s = (m, { s with moves := ms }) := by
  rcases takeMove_cases s with ⟨m', ms', h', e⟩ | ⟨h', -⟩
  · rw [h] at h'; cases h'; exact e
  · rw [h] at h'; cases h'

/-- The abort of INIT: Uninitialized, idle, the response of the error (60_exceptions.md R155). -/
theorem raise_init {s : State} {l : InitLabel} {e : ErrorKind} {r : Response} (h : s.pc = .init l)
    (hr : e.reported = some r) :
    raise e s = { s with xport := .idle, pc := .idle, phase := .uninitialized, trace := .rsp r :: s.trace } := by
  simp [raise, h, report, hr, emit, goto]

/-- The abort of SEND: `PHASE` stays. -/
theorem raise_send {s : State} {l : SendLabel} {e : ErrorKind} {r : Response} (h : s.pc = .send l)
    (hr : e.reported = some r) :
    raise e s = { s with xport := .idle, pc := .idle, trace := .rsp r :: s.trace } := by
  simp [raise, h, report, hr, emit, goto]

/-- The abort of RECV: `PHASE` stays. -/
theorem raise_recv {s : State} {l : RecvLabel} {e : ErrorKind} {r : Response} (h : s.pc = .recv l)
    (hr : e.reported = some r) :
    raise e s = { s with xport := .idle, pc := .idle, trace := .rsp r :: s.trace } := by
  simp [raise, h, report, hr, emit, goto]

/-- With no operation in progress there is nothing to abort. -/
theorem raise_idle {s : State} {e : ErrorKind} (h : s.pc = .idle) : raise e s = { s with xport := .idle } := by
  simp [raise, h]

/-- A guarded micro-step answers a next state only with the transport idle. -/
theorem whenTransportIdle_next {s u : State} {k : Host.Outcome State Fault Refusal}
    (h : whenTransportIdle s k = .next u) : s.xport = .idle ∧ k = .next u := by
  unfold whenTransportIdle at h
  cases hx : s.xport <;> rw [hx] at h <;> first | exact ⟨rfl, h⟩ | cases h

/-- A guarded micro-step faults only with the transport idle. -/
theorem whenTransportIdle_fault {s : State} {f : Fault} {k : Host.Outcome State Fault Refusal}
    (h : whenTransportIdle s k = .fault f) : s.xport = .idle ∧ k = .fault f := by
  unfold whenTransportIdle at h
  cases hx : s.xport <;> rw [hx] at h <;> first | exact ⟨rfl, h⟩ | cases h

/-- With the transport idle the guard is transparent. -/
theorem whenTransportIdle_idle {s : State} (k : Host.Outcome State Fault Refusal) (h : s.xport = .idle) :
    whenTransportIdle s k = k := by
  simp [whenTransportIdle, h]

end Sys2Proof.Machine
end

