-- ==== Sys2Proof/Laws/Init.lean ====
section
/-!
SUPPORT. What a step of INIT can do, said once.
-/

namespace Sys2Proof.Machine

/-- A micro-step of INIT that has a transaction opens exactly that transaction's frame. -/
theorem initStep_opens {c : Cfg} {l : InitLabel} {s : State} {t : Transaction}
    (h : initTransaction c l s = some t) : initStep c l s = .next (openFrame t s) := by
  cases l <;> simp only [initTransaction, initStep] at h ⊢ <;> try (cases h <;> rfl)
  · rename_i j
    cases hw : c.openF.initSetup[j]? <;> rw [hw] at h <;> cases h
    rfl
  · split at h
    · cases h
    · cases h
      rename_i hn
      simp [hn]

/-- Everything a micro-step of INIT can answer: the frame of its transaction, the settle delay, the lookup (found or
raised), the end of the setup list, the confirmed mode, the completion. -/
theorem initStep_next {c : Cfg} {l : InitLabel} {s u : State} (h : initStep c l s = .next u) :
    (∃ t, initTransaction c l s = some t ∧ u = openFrame t s) ∨
    (l = .i1 ∧ u = goto (.init .i2) { delay Config.tSettleMs s with phase := .configuring }) ∨
    (∃ t, l = .i2 ∧ c.lookup s.rate = some t ∧ u = goto (.init .i3) { s with cnfv := t }) ∨
    (l = .i2 ∧ c.lookup s.rate = none ∧ u = raise .unknownBitRate s) ∨
    (∃ j, l = .i6 j ∧ c.openF.initSetup[j]? = none ∧ u = goto (.init .i7) s) ∨
    (l = .i11 ∧ inNormalMode c s.rdata = true ∧ u = goto (.init .i12) s) ∨
    (l = .i12 ∧ u = complete .ok { s with phase := .normal }) := by
  cases ht : initTransaction c l s with
  | some t =>
    rw [initStep_opens ht] at h
    cases h
    exact .inl ⟨t, rfl, rfl⟩
  | none =>
    right
    cases l <;> simp only [initTransaction, initStep] at h ht <;> try cases ht
    · cases h; simp
    · cases hl : c.lookup s.rate <;> rw [hl] at h <;> cases h <;> simp
    · rename_i j
      cases hw : c.openF.initSetup[j]? <;> rw [hw] at h ht <;> cases ht
      cases h
      exact .inr (.inr (.inr (.inl ⟨j, rfl, hw, rfl⟩)))
    · split at ht
      · rename_i hn
        rw [if_pos hn] at h
        cases h
        simp [hn]
      · cases ht
    · cases h; simp

/-- Everything INIT can answer: its acceptance on an idle block, or its next micro-step. -/
theorem runInit_next {c : Cfg} {r : RateName} {s u : State} (h : runInit c r s = .next u) :
    s.xport = .idle ∧ ((s.pc = .idle ∧ u = acceptInit r s) ∨ ∃ l, s.pc = .init l ∧ initStep c l s = .next u) := by
  unfold runInit at h
  cases hp : s.pc <;> rw [hp] at h
  · obtain ⟨hx, hk⟩ := whenTransportIdle_next h
    cases hk
    exact ⟨hx, .inl ⟨rfl, rfl⟩⟩
  · obtain ⟨hx, hk⟩ := whenTransportIdle_next h
    exact ⟨hx, .inr ⟨_, rfl, hk⟩⟩
  · cases h
  · cases h

/-- INIT never faults. -/
theorem runInit_no_fault {c : Cfg} {r : RateName} {s : State} {f : Fault} : runInit c r s ≠ .fault f := by
  intro h
  unfold runInit at h
  cases hp : s.pc <;> rw [hp] at h
  · cases (whenTransportIdle_fault h).2
  · obtain ⟨-, hk⟩ := whenTransportIdle_fault h
    revert hk
    rename_i l
    cases l <;> simp only [initStep] <;> (try split) <;> intro hk <;> cases hk
  · cases h
  · cases h

end Sys2Proof.Machine
end

