-- ==== Sys2Proof/Laws/Operands.lean ====
section
/-!
SUPPORT. The laws of the payload buffers: reading after writing, and which indices exist.
-/

namespace Sys2Proof.Machine

/-- A buffer has exactly the indices 0 to 7. -/
theorem bufGet_isSome (b : Buf) (i : Nat) : (bufGet b i).isSome = decide (i < 8) := by
  rcases i with _ | _ | _ | _ | _ | _ | _ | _ | i <;> simp [bufGet]

/-- Byte `i` of the buffer's list is byte `i` of the buffer. -/
theorem bufList_getElem? (b : Buf) (i : Nat) : (bufList b)[i]? = bufGet b i := by
  rcases i with _ | _ | _ | _ | _ | _ | _ | _ | i <;> simp [bufGet, bufList]

/-- Writing byte `i` succeeds exactly for `i` at most 7, and then only that byte changes. -/
theorem bufSet_spec {b : Buf} {i : Nat} (v : Byte) (h : i < 8) :
    ∃ b', bufSet b i v = some b' ∧ ∀ k, bufGet b' k = if k = i then some v else bufGet b k := by
  rcases i with _ | _ | _ | _ | _ | _ | _ | _ | i <;> first
    | exact ⟨_, rfl, fun k => by rcases k with _ | _ | _ | _ | _ | _ | _ | _ | k <;> simp [bufGet]⟩
    | omega

/-- There is no byte 8 to write. -/
theorem bufSet_none {b : Buf} {i : Nat} {v : Byte} (h : bufSet b i v = none) : 8 ≤ i := by
  rcases i with _ | _ | _ | _ | _ | _ | _ | _ | i <;> simp [bufSet] at h ⊢

/-- The latch takes the bytes below the length from the port and keeps the others. -/
theorem bufLatch_get (n : Nat) (new old : Buf) (k : Nat) :
    bufGet (bufLatch n new old) k = if k < n then bufGet new k else bufGet old k := by
  rcases k with _ | _ | _ | _ | _ | _ | _ | _ | k <;>
    (simp only [bufGet, bufLatch]; split <;> rfl)

end Sys2Proof.Machine
end

