-- ==== Sys2Proof/Laws/PerInstr.lean ====
section
/-!
SUPPORT. The statement made once per operation: at which layer it is encoded (spec 30_encoding.md R60, R69, R71), and
with how many byte slots (R64) or with which command code.
-/

/-- What the encoding of an operation is: a transaction is a frame whose number of slots its first byte gives, a controller
operation is a command that is not the reserved code, IRQ is a pair of pin samples. -/
def Sys2Proof.Laws.Layer.Statement (i : Sys2Proof.Instr) : Prop :=
  match i with
  | .rst => ∃ w, Sys2Proof.encode i = .frame w ∧ w.head?.bind Sys2Proof.frameLength = some w.length
  | .rd _ => ∃ w, Sys2Proof.encode i = .frame w ∧ w.head?.bind Sys2Proof.frameLength = some w.length
  | .wr _ _ => ∃ w, Sys2Proof.encode i = .frame w ∧ w.head?.bind Sys2Proof.frameLength = some w.length
  | .init _ => ∃ p, Sys2Proof.encode i = .command p ∧ p.op ≠ 0b11
  | .send _ _ _ => ∃ p, Sys2Proof.encode i = .command p ∧ p.op ≠ 0b11
  | .recv _ => ∃ p, Sys2Proof.encode i = .command p ∧ p.op ≠ 0b11
  | .irq => ∃ a b, Sys2Proof.encode i = .edge a b ∧ a ≠ b

/-- RST is one slot. -/
theorem Sys2Proof.Laws.Layer.rst : Sys2Proof.Laws.Layer.Statement .rst := ⟨_, rfl, rfl⟩

/-- RD is three slots. -/
theorem Sys2Proof.Laws.Layer.rd (a : Sys2Proof.Addr) : Sys2Proof.Laws.Layer.Statement (.rd a) := ⟨_, rfl, rfl⟩

/-- WR is three slots. -/
theorem Sys2Proof.Laws.Layer.wr (a : Sys2Proof.Addr) (v : Sys2Proof.Byte) : Sys2Proof.Laws.Layer.Statement (.wr a v) :=
  ⟨_, rfl, rfl⟩

/-- INIT is a command. -/
theorem Sys2Proof.Laws.Layer.init (r : Sys2Proof.RateName) : Sys2Proof.Laws.Layer.Statement (.init r) :=
  ⟨_, rfl, by change (0b00 : BitVec 2) ≠ 0b11; decide⟩

/-- SEND is a command. -/
theorem Sys2Proof.Laws.Layer.send (i : BitVec 11) (n : BitVec 4) (d : Sys2Proof.Buf) :
    Sys2Proof.Laws.Layer.Statement (.send i n d) :=
  ⟨_, rfl, by change (0b01 : BitVec 2) ≠ 0b11; decide⟩

/-- RECV is a command. -/
theorem Sys2Proof.Laws.Layer.recv (i : BitVec 11) : Sys2Proof.Laws.Layer.Statement (.recv i) :=
  ⟨_, rfl, by change (0b10 : BitVec 2) ≠ 0b11; decide⟩

/-- IRQ is a change of level. -/
theorem Sys2Proof.Laws.Layer.irq : Sys2Proof.Laws.Layer.Statement .irq := ⟨_, _, rfl, by decide⟩
end

