-- ==== Sys2Proof/Laws/Recv.lean ====
section
/-!
SUPPORT. What a step of RECV can do, said once.
-/

namespace Sys2Proof.Machine

/-- A micro-step of RECV that has a transaction opens exactly that transaction's frame. -/
theorem recvStep_opens {c : Cfg} {l : RecvLabel} {s : State} {t : Transaction}
    (h : recvTransaction c l s = some t) : recvStep c l s = .next (openFrame t s) := by
  cases l <;> simp only [recvTransaction, recvStep] at h ⊢ <;> try (cases h <;> rfl)
  split at h
  · rename_i hi
    cases h
    simp [hi.1, hi.2]
  · cases h

/-- Everything a micro-step of RECV can answer with a next state: the frame of its transaction, the test and clear V0 with
its two results, the flag test V4, the length test V6, the end of the data, the completion. -/
theorem recvStep_next {c : Cfg} {l : RecvLabel} {s u : State} (h : recvStep c l s = .next u) :
    (∃ t, recvTransaction c l s = some t ∧ u = openFrame t s) ∨
    (l = .v0 ∧ s.rxpend = true ∧ u = goto (.recv .v1) { s with rxpend := false }) ∨
    (l = .v0 ∧ s.rxpend = false ∧ u = complete .noData s) ∨
    (l = .v4 ∧ u = goto (.recv (if rxFull s.rdata then .v5 else .v3)) s) ∨
    (l = .v6 ∧ s.rxlen.toNat ≤ 8 ∧ u = goto (.recv .v7) s) ∨
    (l = .v7 ∧ s.rxlen.toNat ≤ s.idx.toNat ∧ u = goto (.recv .v8) s) ∨
    (l = .v12 ∧ u = complete (frameResponse s) s) := by
  cases ht : recvTransaction c l s with
  | some t =>
    rw [recvStep_opens ht] at h
    cases h
    exact .inl ⟨t, rfl, rfl⟩
  | none =>
    right
    cases l <;> simp only [recvTransaction, recvStep] at h ht <;> try cases ht
    · split at h <;> cases h <;> rename_i hb
      · exact .inl ⟨rfl, hb, rfl⟩
      · exact .inr (.inl ⟨rfl, by simpa using hb, rfl⟩)
    · split at h <;> cases h <;> rename_i hb <;> simp [hb]
    · split at h <;> cases h
      rename_i hb
      exact .inr (.inr (.inr (.inl ⟨rfl, hb, rfl⟩)))
    · split at h
      · rename_i hi
        split at h
        · rename_i hi2
          rw [if_pos ⟨hi, hi2⟩] at ht
          cases ht
        · cases h
      · cases h
        rename_i hi
        exact .inr (.inr (.inr (.inr (.inl ⟨rfl, by omega, rfl⟩))))
    · cases h; simp

/-- The two faults of RECV's micro-steps. -/
theorem recvStep_fault {c : Cfg} {l : RecvLabel} {s : State} {f : Fault} (h : recvStep c l s = .fault f) :
    (l = .v6 ∧ 8 < s.rxlen.toNat ∧ f = .recvLengthOutOfRange) ∨
      (l = .v7 ∧ s.idx.toNat < s.rxlen.toNat ∧ 8 ≤ s.idx.toNat ∧ f = .bufferIndexOutOfRange) := by
  cases l <;> simp only [recvStep] at h <;> try cases h
  · split at h <;> cases h
  · split at h <;> cases h
  · split at h <;> cases h
    rename_i hb
    have hb : ¬s.rxlen.toNat ≤ 8 := hb
    exact .inl ⟨rfl, by omega, rfl⟩
  · split at h
    · rename_i hi
      split at h <;> cases h
      rename_i hi2
      exact .inr ⟨rfl, hi, by omega, rfl⟩
    · cases h

/-- Everything RECV can answer: its acceptance on an idle block in Normal, or its next micro-step. -/
theorem runRecv_next {c : Cfg} {i : BitVec 11} {s u : State} (h : runRecv c i s = .next u) :
    s.xport = .idle ∧
      ((s.pc = .idle ∧ s.phase = .normal ∧ u = acceptRecv i s) ∨ ∃ l, s.pc = .recv l ∧ recvStep c l s = .next u) := by
  unfold runRecv at h
  cases hp : s.pc <;> rw [hp] at h
  · obtain ⟨hx, hk⟩ := whenTransportIdle_next h
    unfold admitRecv at hk
    cases hph : s.phase <;> rw [hph] at hk <;> simp only [reduceCtorEq] at hk
    cases hk
    exact ⟨hx, .inl ⟨rfl, rfl, rfl⟩⟩
  · cases h
  · cases h
  · obtain ⟨hx, hk⟩ := whenTransportIdle_next h
    exact ⟨hx, .inr ⟨_, rfl, hk⟩⟩

/-- RECV faults only in a micro-step of its own. -/
theorem runRecv_fault {c : Cfg} {i : BitVec 11} {s : State} {f : Fault} (h : runRecv c i s = .fault f) :
    ∃ l, s.pc = .recv l ∧ s.xport = .idle ∧ recvStep c l s = .fault f := by
  unfold runRecv at h
  cases hp : s.pc <;> rw [hp] at h
  · obtain ⟨-, hk⟩ := whenTransportIdle_fault h
    unfold admitRecv at hk
    cases hph : s.phase <;> rw [hph] at hk <;> cases hk
  · cases h
  · cases h
  · obtain ⟨hx, hk⟩ := whenTransportIdle_fault h
    exact ⟨_, rfl, hx, hk⟩

/-- The return of RECV's transactions: with a next state, where each goes on. -/
theorem recvReturn_next {l : RecvLabel} {s u : State} (h : recvReturn l s = .next u) :
    (l = .v5 ∧ u = goto (.recv .v6) { s with rxlen := s.rdata, idx := 0 }) ∨
    (∃ b, l = .v7 ∧ bufSet s.rxbuf s.idx.toNat s.rdata = some b ∧
      u = goto (.recv (if (s.idx + 1).toNat < s.rxlen.toNat then .v7 else .v8)) { s with rxbuf := b, idx := s.idx + 1 }) ∨
    (∃ l', (l, l') ∈ [(RecvLabel.v1, RecvLabel.v2), (.v2, .v3), (.v3, .v4), (.v8, .v9), (.v9, .v10), (.v10, .v11),
      (.v11, .v12)] ∧ u = goto (.recv l') s) ∨
    (l ∈ [RecvLabel.v0, .v4, .v6, .v12] ∧ u = s) := by
  cases l <;> simp only [recvReturn] at h
  case v7 =>
    cases hb : bufSet s.rxbuf s.idx.toNat s.rdata <;> rw [hb] at h <;> cases h
    exact .inr (.inl ⟨_, rfl, rfl, rfl⟩)
  all_goals (cases h; simp)

/-- The return of RECV's transactions faults only where there is no such byte of the receive buffer. -/
theorem recvReturn_fault {l : RecvLabel} {s : State} {f : Fault} (h : recvReturn l s = .fault f) :
    l = .v7 ∧ 8 ≤ s.idx.toNat ∧ f = .bufferIndexOutOfRange := by
  cases l <;> simp only [recvReturn] at h
  case v7 =>
    cases hb : bufSet s.rxbuf s.idx.toNat s.rdata <;> rw [hb] at h <;> cases h
    exact ⟨rfl, bufSet_none hb, rfl⟩
  all_goals cases h

end Sys2Proof.Machine
end

