-- ==== Sys2Proof/Laws/Send.lean ====
section
/-!
SUPPORT. What a step of SEND can do, said once.
-/

namespace Sys2Proof.Machine

/-- The state in which the micro-step at `l` opens its frame: S1 counts the poll first (42_send.md R118). -/
def sendPrepared (l : SendLabel) (s : State) : State :=
  { s with cnt := if l = .s1 then s.cnt + 1 else s.cnt }

/-- A micro-step of SEND that has a transaction opens exactly that transaction's frame. -/
theorem sendStep_opens {c : Cfg} {l : SendLabel} {s : State} {t : Transaction}
    (h : sendTransaction c l s = some t) : sendStep c l s = .next (openFrame t (sendPrepared l s)) := by
  cases l <;> simp only [sendTransaction, sendStep, sendPrepared] at h ⊢ <;> try (cases h <;> rfl)
  split at h
  · rename_i hi
    cases hb : bufGet s.txbuf s.idx.toNat <;> rw [hb] at h <;> cases h
    simp [hi]
  · cases h

/-- Everything a micro-step of SEND can answer with a next state: the frame of its transaction, S0, the test S2, the wait
S3, the end of the data, the completion. -/
theorem sendStep_next {c : Cfg} {l : SendLabel} {s u : State} (h : sendStep c l s = .next u) :
    (∃ t, sendTransaction c l s = some t ∧ u = openFrame t (sendPrepared l s)) ∨
    (l = .s0 ∧ u = goto (.send .s1) { s with cnt := 0 }) ∨
    (l = .s2 ∧ u = goto (.send (if busy c s.rdata then .s3 else .s4)) s) ∨
    (l = .s3 ∧ u = goto (.send (if s.cnt.toNat < Config.nPoll then .s1 else .s4)) (delay Config.tPollMs s)) ∨
    (l = .s9 ∧ s.len.toNat ≤ s.idx.toNat ∧ u = goto (.send .s10) s) ∨
    (l = .s11 ∧ u = complete .ok s) := by
  cases ht : sendTransaction c l s with
  | some t =>
    rw [sendStep_opens ht] at h
    cases h
    exact .inl ⟨t, rfl, rfl⟩
  | none =>
    right
    cases l <;> simp only [sendTransaction, sendStep] at h ht <;> try cases ht
    · cases h; simp
    · split at h <;> cases h <;> rename_i hb <;> simp [hb]
    · cases h; simp
    · split at h
      · rename_i hi
        rw [if_pos hi] at ht
        cases hb : bufGet s.txbuf s.idx.toNat <;> rw [hb] at h ht
        · cases h
        · cases ht
      · cases h
        rename_i hi
        exact .inr (.inr (.inr (.inl ⟨rfl, by omega, rfl⟩)))
    · cases h; simp

/-- The only fault of SEND: no such byte of the payload buffer. -/
theorem sendStep_fault {c : Cfg} {l : SendLabel} {s : State} {f : Fault} (h : sendStep c l s = .fault f) :
    l = .s9 ∧ s.idx.toNat < s.len.toNat ∧ 8 ≤ s.idx.toNat ∧ f = .bufferIndexOutOfRange := by
  cases l <;> simp only [sendStep] at h <;> try cases h
  · split at h <;> cases h
  · split at h
    · rename_i hi
      cases hb : bufGet s.txbuf s.idx.toNat with
      | some b => rw [hb] at h; cases h
      | none =>
        rw [hb] at h
        cases h
        refine ⟨rfl, hi, ?_, rfl⟩
        have := bufGet_isSome s.txbuf s.idx.toNat
        rw [hb] at this
        simpa using this
    · cases h

/-- Everything SEND can answer: its acceptance on an idle block in Normal, or its next micro-step. -/
theorem runSend_next {c : Cfg} {i : BitVec 11} {n : BitVec 4} {d : Buf} {s u : State}
    (h : runSend c i n d s = .next u) :
    s.xport = .idle ∧
      ((s.pc = .idle ∧ s.phase = .normal ∧ n.toNat ≤ 8 ∧ u = acceptSend i n d s) ∨
        ∃ l, s.pc = .send l ∧ sendStep c l s = .next u) := by
  unfold runSend at h
  cases hp : s.pc <;> rw [hp] at h
  · obtain ⟨hx, hk⟩ := whenTransportIdle_next h
    unfold admitSend at hk
    cases hph : s.phase <;> rw [hph] at hk <;> simp only [reduceCtorEq] at hk
    split at hk
    · rename_i hn
      cases hk
      exact ⟨hx, .inl ⟨rfl, rfl, hn, rfl⟩⟩
    · cases hk
  · cases h
  · obtain ⟨hx, hk⟩ := whenTransportIdle_next h
    exact ⟨hx, .inr ⟨_, rfl, hk⟩⟩
  · cases h

/-- SEND faults only in a micro-step of its own. -/
theorem runSend_fault {c : Cfg} {i : BitVec 11} {n : BitVec 4} {d : Buf} {s : State} {f : Fault}
    (h : runSend c i n d s = .fault f) : ∃ l, s.pc = .send l ∧ s.xport = .idle ∧ sendStep c l s = .fault f := by
  unfold runSend at h
  cases hp : s.pc <;> rw [hp] at h
  · obtain ⟨-, hk⟩ := whenTransportIdle_fault h
    unfold admitSend at hk
    cases hph : s.phase <;> rw [hph] at hk <;> simp only [reduceCtorEq] at hk
    split at hk <;> cases hk
  · cases h
  · obtain ⟨hx, hk⟩ := whenTransportIdle_fault h
    exact ⟨_, rfl, hx, hk⟩
  · cases h

end Sys2Proof.Machine
end

