-- ==== Sys2Proof/Laws/Transport.lean ====
section
/-!
SUPPORT. What a step of the frame procedure can do, said once, and the bytes of the three frames.
-/

namespace Sys2Proof.Machine

/-- A slot below `m` sends, and there is no other byte to send. -/
theorem out_isSome (t : Transaction) (k : Nat) : (t.out[k]?).isSome = decide (k < t.out.length) := by
  by_cases h : k < t.out.length <;> simp [h]

/-- Everything a slot step can do (F2, F3, F4 of 40_transport.md R80): send a byte, receive a byte, fail, or, with no slot
left, go to T_DESEL. -/
theorem slotStep_cases (t : Transaction) (k : Nat) (s : State) :
    (∃ o b s1, t.out[k]? = some o ∧ xfer s = (.ok b, s1) ∧
      slotStep t k s = emit (.tx o) { s1 with xport := .slot t (k + 1) }) ∨
    (∃ a b s1, t = .rd a ∧ k = 2 ∧ xfer s = (.ok b, s1) ∧
      slotStep t k s = emit (.rx b) { s1 with rdata := b, xport := .slot t (k + 1) }) ∨
    (∃ s1, k < t.slots ∧ xfer s = (.fail, s1) ∧
      slotStep t k s = emit .xfail { s1 with errf := true, xport := .desel t }) ∨
    (t.slots ≤ k ∧ slotStep t k s = { s with xport := .desel t }) := by
  have hx : ∃ r s1, xfer s = (r, s1) := ⟨_, _, rfl⟩
  obtain ⟨r, s1, hx⟩ := hx
  unfold slotStep
  cases ho : t.out[k]? with
  | some o =>
    have hk : k < t.slots := by
      have := out_isSome t k
      rw [ho] at this
      simp only [Option.isSome_some, Bool.true_eq, decide_eq_true_eq] at this
      unfold Transaction.slots
      omega
    cases r with
    | ok b => exact .inl ⟨o, b, s1, rfl, hx, by simp [transmitSlot, hx]⟩
    | fail => exact .inr (.inr (.inl ⟨s1, hk, hx, by simp [transmitSlot, hx]⟩))
  | none =>
    have hk : t.out.length ≤ k := by
      have := out_isSome t k
      rw [ho] at this
      simpa using this
    right
    by_cases hs : k < t.slots
    · have hrd : ∃ a, t = .rd a ∧ k = 2 := by
        cases t with
        | rst => simp [Transaction.slots, Transaction.out, Transaction.nin] at hk hs; omega
        | rd a =>
          refine ⟨a, rfl, ?_⟩
          simp [Transaction.slots, Transaction.out, Transaction.nin] at hk hs
          omega
        | wr a v => simp [Transaction.slots, Transaction.out, Transaction.nin] at hk hs; omega
      obtain ⟨a, rfl, rfl⟩ := hrd
      cases r with
      | ok b => exact .inl ⟨a, b, s1, rfl, rfl, hx, by simp only [if_pos hs, receiveSlot, hx]⟩
      | fail => exact .inr (.inl ⟨s1, hs, hx, by simp only [if_pos hs, receiveSlot, hx]⟩)
    · exact .inr (.inr ⟨by omega, by simp [hs]⟩)

/-- Everything a transaction can answer with a next state: F1 at a micro-step that is that transaction, a slot step, F5,
F6. -/
theorem transact_next {c : Cfg} {t : Transaction} {s u : State} (h : transact c t s = .next u) :
    (s.xport = .idle ∧ currentTransaction c s = some t ∧ u = openFrame t s) ∨
    (∃ k, s.xport = .slot t k ∧ u = slotStep t k s) ∨
    (s.xport = .desel t ∧ u = closeFrame t s) ∨
    (s.xport = .closed t ∧ finishFrame s = .next u) := by
  unfold transact at h
  cases hx : s.xport <;> rw [hx] at h <;> simp only at h
  · unfold startInside at h
    split at h
    · rename_i hc
      cases h
      exact .inl ⟨rfl, hc, rfl⟩
    · cases h
  · split at h
    · rename_i he
      subst he
      cases h
      exact .inr (.inl ⟨_, rfl, rfl⟩)
    · cases h
  · split at h
    · rename_i he
      subst he
      cases h
      exact .inr (.inr (.inl ⟨rfl, rfl⟩))
    · cases h
  · split at h
    · rename_i he
      subst he
      exact .inr (.inr (.inr ⟨rfl, h⟩))
    · cases h

/-- A transaction faults only at F6, on the return to RECV. -/
theorem transact_fault {c : Cfg} {t : Transaction} {s : State} {f : Fault} (h : transact c t s = .fault f) :
    s.xport = .closed t ∧ finishFrame s = .fault f := by
  unfold transact at h
  cases hx : s.xport <;> rw [hx] at h <;> simp only at h
  · unfold startInside at h
    split at h <;> cases h
  · split at h <;> cases h
  · split at h <;> cases h
  · split at h
    · rename_i he
      subst he
      exact ⟨rfl, h⟩
    · cases h

/-- Everything F6 can answer with a next state: the abort, or the return to the caller's micro-step. -/
theorem finishFrame_next {s u : State} (h : finishFrame s = .next u) :
    (s.errf = true ∧ u = raise .transportError s) ∨
    (s.errf = false ∧ s.pc = .idle ∧ u = leaveFrame s) ∨
    (∃ l, s.errf = false ∧ s.pc = .init l ∧ u = initReturn l (leaveFrame s)) ∨
    (∃ l, s.errf = false ∧ s.pc = .send l ∧ u = sendReturn l (leaveFrame s)) ∨
    (∃ l, s.errf = false ∧ s.pc = .recv l ∧ recvReturn l (leaveFrame s) = .next u) := by
  unfold finishFrame at h
  split at h
  · rename_i he
    cases h
    exact .inl ⟨he, rfl⟩
  · rename_i he
    have he : s.errf = false := by simpa using he
    right
    unfold resume at h
    cases hp : s.pc <;> simp only [leaveFrame_pc, hp] at h
    · cases h; exact .inl ⟨he, rfl, rfl⟩
    · cases h; exact .inr (.inl ⟨_, he, rfl, rfl⟩)
    · cases h; exact .inr (.inr (.inl ⟨_, he, rfl, rfl⟩))
    · exact .inr (.inr (.inr ⟨_, he, rfl, h⟩))

/-- F6 faults only on the return to RECV at V7 with no such byte of the receive buffer. -/
theorem finishFrame_fault {s : State} {f : Fault} (h : finishFrame s = .fault f) :
    s.pc = .recv .v7 ∧ 8 ≤ s.idx.toNat ∧ f = .bufferIndexOutOfRange := by
  unfold finishFrame at h
  split at h
  · cases h
  · unfold resume at h
    cases hp : s.pc <;> simp only [leaveFrame_pc, hp] at h <;> try cases h
    rename_i l
    obtain ⟨rfl, h8, hf⟩ := recvReturn_fault h
    exact ⟨rfl, h8, hf⟩

/-- The meaning of a transaction's operation is the transaction. -/
@[simp] theorem exec_instr (t : Transaction) (s : State) : exec t.instr s = transact Config.cfg t s := by
  cases t <;> rfl

/-- With no frame open a transaction opens one where the micro-step is that transaction. -/
theorem transact_inside {c : Cfg} {t : Transaction} {s : State} (hx : s.xport = .idle)
    (h : currentTransaction c s = some t) : transact c t s = .next (openFrame t s) := by
  simp [transact, hx, startInside, h]

/-- With no frame open a transaction is refused where the micro-step is not that transaction (30_encoding.md R74). -/
theorem transact_outside {c : Cfg} {t : Transaction} {s : State} (hx : s.xport = .idle)
    (h : currentTransaction c s ≠ some t) : transact c t s = .refused .outsideExpansion := by
  simp [transact, hx, startInside, h]

/-- An idle block has no micro-step, and so no transaction. -/
theorem currentTransaction_idle {c : Cfg} {s : State} (h : s.pc = .idle) : currentTransaction c s = none := by
  simp [currentTransaction, h]

/-- In a slot of its own frame a transaction takes a slot step. -/
@[simp] theorem transact_slot {c : Cfg} {t : Transaction} {k : Nat} {s : State} (h : s.xport = .slot t k) :
    transact c t s = .next (slotStep t k s) := by
  simp [transact, h]

/-- At T_DESEL of its own frame a transaction releases chip-select. -/
@[simp] theorem transact_desel {c : Cfg} {t : Transaction} {s : State} (h : s.xport = .desel t) :
    transact c t s = .next (closeFrame t s) := by
  simp [transact, h]

/-- With its own frame closed a transaction takes step F6. -/
@[simp] theorem transact_closed {c : Cfg} {t : Transaction} {s : State} (h : s.xport = .closed t) :
    transact c t s = finishFrame s := by
  simp [transact, h]

end Sys2Proof.Machine
end

