-- ==== Sys2Proof/Laws/Step.lean ====
section
/-!
SUPPORT. What a step of the machine can do, said once.
-/

namespace Sys2Proof.Machine

/-- Every operation's answer comes from one of four places: a transaction, INIT, SEND, RECV, or IRQ. -/
theorem exec_cases (i : Instr) (s : State) :
    (∃ t : Transaction, i = t.instr ∧ exec i s = transact Config.cfg t s) ∨
    (∃ r, i = .init r ∧ exec i s = runInit Config.cfg r s) ∨
    (∃ id n d, i = .send id n d ∧ exec i s = runSend Config.cfg id n d s) ∨
    (∃ id, i = .recv id ∧ exec i s = runRecv Config.cfg id s) ∨
    (i = .irq ∧ exec i s = .next (takeInterrupt s)) := by
  cases i with
  | rst => exact .inl ⟨.rst, rfl, rfl⟩
  | rd a => exact .inl ⟨.rd a, rfl, rfl⟩
  | wr a v => exact .inl ⟨.wr a v, rfl, rfl⟩
  | init r => exact .inr (.inl ⟨r, rfl, rfl⟩)
  | send id n d => exact .inr (.inr (.inl ⟨id, n, d, rfl, rfl⟩))
  | recv id => exact .inr (.inr (.inr (.inl ⟨id, rfl, rfl⟩)))
  | irq => exact .inr (.inr (.inr (.inr ⟨rfl, rfl⟩)))

/-- What a fetch can find: the open transaction; the operation in progress; the operation decoded from
the next command; nothing, with no command presented; or an illegal encoding. Only a
command taken from the port changes the state it is run in. -/
theorem fetch_run {s s1 : State} {i : Instr} (h : fetch s = .run i s1) :
    (∃ t, (∃ k, s.xport = .slot t k) ∧ i = t.instr ∧ s1 = s) ∨
    (∃ t, (s.xport = .desel t ∨ s.xport = .closed t) ∧ i = t.instr ∧ s1 = s) ∨
    (s.xport = .idle ∧ (∃ l, s.pc = .init l) ∧ i = .init s.rate ∧ s1 = s) ∨
    (s.xport = .idle ∧ (∃ l, s.pc = .send l) ∧ i = .send s.id s.len s.txbuf ∧ s1 = s) ∨
    (s.xport = .idle ∧ (∃ l, s.pc = .recv l) ∧ i = .recv s.id ∧ s1 = s) ∨
    (∃ p ps, s.xport = .idle ∧ s.pc = .idle ∧ s.port = p :: ps ∧ decode (.command p) = .ok i ∧
      s1 = { s with port := ps }) := by
  unfold fetch at h
  cases hx : s.xport <;> rw [hx] at h <;> simp only at h
  · unfold fetchCommand at h
    cases hp : s.pc <;> rw [hp] at h <;> simp only at h
    · cases hq : s.port <;> rw [hq] at h <;> simp only at h
      · cases h
      · unfold fetchEncoded at h
        split at h <;> cases h
        rename_i hd
        exact .inr (.inr (.inr (.inr (.inr ⟨_, _, rfl, rfl, rfl, hd, by rw [hx]⟩))))
    · cases h
      exact .inr (.inr (.inl ⟨rfl, ⟨_, rfl⟩, rfl, rfl⟩))
    · cases h
      exact .inr (.inr (.inr (.inl ⟨rfl, ⟨_, rfl⟩, rfl, rfl⟩)))
    · cases h
      exact .inr (.inr (.inr (.inr (.inl ⟨rfl, ⟨_, rfl⟩, rfl, rfl⟩))))
  · cases h; exact .inl ⟨_, ⟨_, rfl⟩, rfl, rfl⟩
  · cases h; exact .inr (.inl ⟨_, .inl rfl, rfl, rfl⟩)
  · cases h; exact .inr (.inl ⟨_, .inr rfl, rfl, rfl⟩)

/-- No command is a transaction (30_encoding.md R74). -/
theorem decodeCommand_ne_transaction (p : CmdPort) (t : Transaction) : decode (.command p) ≠ .ok t.instr := by
  intro h
  simp only [decode, decodeCommand] at h
  cases t <;> split at h <;> (try cases h) <;> split at h <;> (try cases h) <;> split at h <;> cases h

/-- A fetch finds a transaction only where its frame is open, or closed and not yet returned from: no step opens a frame
outside a micro-step of INIT, SEND or RECV. -/
theorem fetch_transaction {s s1 : State} {t : Transaction} (h : fetch s = .run t.instr s1) :
    ((∃ k, s.xport = .slot t k) ∨ s.xport = .desel t ∨ s.xport = .closed t) ∧ s1 = s := by
  have inj : ∀ t' : Transaction, t.instr = t'.instr → t' = t := by
    intro t' e
    cases t <;> cases t' <;> cases e <;> rfl
  rcases fetch_run h with ⟨t', ⟨k, hx⟩, e, rfl⟩ | ⟨t', hx, e, rfl⟩ | ⟨_, _, e, rfl⟩ | ⟨_, _, e, rfl⟩ | ⟨_, _, e, rfl⟩ |
    ⟨p, ps, _, _, _, hd, rfl⟩
  · cases inj t' e
    exact ⟨.inl ⟨k, hx⟩, rfl⟩
  · cases inj t' e
    exact ⟨.inr hx, rfl⟩
  · cases t <;> cases e
  · cases t <;> cases e
  · cases t <;> cases e
  · exact absurd hd (decodeCommand_ne_transaction p t)

/-- Everything a step can do with a next state: the operation the normal context fetches, its waiting for a command, an
interrupt, a sample without an edge, or the reset of the block. `s1` is the state with the mover taken. -/
theorem step_next {s u : State} (h : step s = .next u) :
    ∃ m s1, takeMove s = (m, s1) ∧
      ((m = .run ∧ ∃ i s2, fetch s1 = .run i s2 ∧ exec i s2 = .next u) ∨
        (m = .run ∧ fetch s1 = .wait ∧ u = s1) ∨
        (m = .sample .low ∧ s1.intPrev = .high ∧ u = takeInterrupt { s1 with intPrev := .low }) ∨
        (∃ l, m = .sample l ∧ ¬(s1.intPrev = .high ∧ l = .low) ∧ u = { s1 with intPrev := l }) ∨
        (m = .reset ∧ u = blockReset s1)) := by
  have hm : ∃ m s1, takeMove s = (m, s1) := ⟨_, _, rfl⟩
  obtain ⟨m, s1, hm⟩ := hm
  refine ⟨m, s1, hm, ?_⟩
  unfold step at h
  rw [hm] at h
  cases m with
  | run =>
    simp only [runStep] at h
    cases hf : fetch s1 <;> rw [hf] at h <;> simp only at h
    · exact .inl ⟨rfl, _, _, rfl, h⟩
    · cases h
    · cases h; exact .inr (.inl ⟨rfl, rfl, rfl⟩)
  | sample l =>
    simp only [sampleStep, samplePin, decode, decodeEdge] at h
    cases hp : s1.intPrev <;> cases l <;> rw [hp] at h <;> simp only [exec, execIrq] at h <;> cases h <;> simp
  | reset => cases h; simp

/-- A step faults only in an operation the normal context fetched. -/
theorem step_fault {s : State} {f : Fault} (h : step s = .fault f) :
    ∃ s1 i s2, takeMove s = (.run, s1) ∧ fetch s1 = .run i s2 ∧ exec i s2 = .fault f := by
  have hm : ∃ m s1, takeMove s = (m, s1) := ⟨_, _, rfl⟩
  obtain ⟨m, s1, hm⟩ := hm
  unfold step at h
  rw [hm] at h
  cases m with
  | run =>
    simp only [runStep] at h
    cases hf : fetch s1 <;> rw [hf] at h <;> simp only at h
    · exact ⟨s1, _, _, hm, hf, h⟩
    · cases h
    · cases h
  | sample l =>
    simp only [sampleStep, samplePin, decode, decodeEdge] at h
    cases hp : s1.intPrev <;> cases l <;> rw [hp] at h <;> simp only [exec, execIrq] at h <;> cases h
  | reset => cases h

/-- `n + 1` steps of the machine are a step and then `n` steps. -/
theorem run_succ {s u : State} (n : Nat) (h : step s = .next u) :
    Sys2Proof.core.run (n + 1) s = Sys2Proof.core.run n u := by
  have h' : Sys2Proof.core.step s = .next u := h
  simp only [Host.Core.run, h']

/-- With the normal context to move, a step runs what it fetches. -/
theorem step_run {s : State} {ms : List Move} (h : s.moves = .run :: ms) : step s = runStep { s with moves := ms } := by
  simp [step, takeMove_cons h]

/-- With a reset to come, a step is the reset of the block (70_reset_and_hazards.md R170). -/
theorem step_reset {s : State} {ms : List Move} (h : s.moves = .reset :: ms) :
    step s = .next (blockReset { s with moves := ms }) := by
  simp [step, takeMove_cons h]

end Sys2Proof.Machine
end

