-- ==== Sys2Proof/Laws/Run.lean ====
section
/-!
SUPPORT. Runs of several steps, and the steps of an open frame with the normal context to move.
-/

namespace Sys2Proof.Machine

/-- A run starts with its first step. -/
theorem run_next {s u : State} {o : Host.Outcome State Fault Refusal} {n : Nat} (h : step s = .next u)
    (hr : Sys2Proof.core.run n u = o) : Sys2Proof.core.run (n + 1) s = o := by
  rw [run_succ n h]
  exact hr

/-- A run of one step. -/
theorem run_one {s u : State} (h : step s = .next u) : Sys2Proof.core.run 1 s = .next u := run_next h rfl

/-- Runs compose. -/
theorem run_add (a b : Nat) (s u : State) (h : Sys2Proof.core.run a s = .next u) :
    Sys2Proof.core.run (a + b) s = Sys2Proof.core.run b u := by
  induction a generalizing s with
  | zero =>
    simp only [Host.Core.run] at h
    cases h
    simp
  | succ n ih =>
    rw [show n + 1 + b = (n + b) + 1 from by omega]
    simp only [Host.Core.run] at h ⊢
    cases hs : Sys2Proof.core.step s with
    | next v => rw [hs] at h; exact ih v h
    | fault f => rw [hs] at h; cases h
    | refused r => rw [hs] at h; cases h

/-- With a frame open or closed and not returned from, a step of the normal context is a step of its transaction. -/
theorem step_open {t : Transaction} {s : State} {ms : List Move} (hm : s.moves = .run :: ms)
    (h : (∃ k, s.xport = .slot t k) ∨ s.xport = .desel t ∨ s.xport = .closed t) :
    step s = transact Config.cfg t { s with moves := ms } := by
  rw [step_run hm]
  rcases h with ⟨k, hx⟩ | hx | hx <;> simp [runStep, fetch, hx]

/-- The step at T_DESEL. -/
theorem step_desel {t : Transaction} {s : State} {ms : List Move} (hx : s.xport = .desel t)
    (hm : s.moves = .run :: ms) : step s = .next (closeFrame t { s with moves := ms }) := by
  rw [step_open (t := t) hm (.inr (.inl hx)), transact_desel (s := { s with moves := ms }) hx]

/-- The step F6. -/
theorem step_closed {t : Transaction} {s : State} {ms : List Move} (hx : s.xport = .closed t)
    (hm : s.moves = .run :: ms) : step s = finishFrame { s with moves := ms } := by
  rw [step_open (t := t) hm (.inr (.inr hx)), transact_closed (s := { s with moves := ms }) hx]

/-- The step at T_SLOT(k). -/
theorem step_slot {t : Transaction} {k : Nat} {s : State} {ms : List Move} (hx : s.xport = .slot t k)
    (hm : s.moves = .run :: ms) : step s = .next (slotStep t k { s with moves := ms }) := by
  rw [step_open (t := t) hm (.inl ⟨k, hx⟩), transact_slot (s := { s with moves := ms }) hx]

end Sys2Proof.Machine
end

