-- ==== Sys2Proof/Tests/Slice0.lean ====
section
/-!
SUPPORT. Tests on single steps, with expected values from the spec's own vectors (95_test_vectors.md), and one witness for
each statement that has hypotheses: a concrete state and operands that meet all of them.
-/

namespace Sys2Proof.Tests

open Sys2Proof.Machine

/-! ### Helpers -/

/-- A block that is Normal, at program counter `p` with transport `x`. -/
def at' (p : Pc) (x : Xport) : State := { State.reset with phase := .normal, pc := p, xport := x }

/-- What `f` shows of a next state. -/
def seen {α : Type} (f : State → α) : Host.Outcome State Fault Refusal → Option α
  | .next s => some (f s)
  | .fault _ => none
  | .refused _ => none

/-- Payload bytes for the tests. -/
def bytes : Buf := ⟨1, 2, 3, 4, 5, 6, 7, 8⟩

/-! ### Well-formedness and configuration -/

/-- 30_encoding.md R69: nine payload bytes are not a well-formed SEND, eight are. -/
theorem test_wellFormed_send : Instr.wellFormed (.send 0x123 9 bytes) = false ∧
    Instr.wellFormed (.send 0x123 8 bytes) = true := by decide

/-- 92_eei_decisions.md: `CFG_DEF` and `CFG_POS` are well formed, here over the OPEN fields of `CFG_T`. -/
theorem test_cfg_wf : Config.wf (Config.cfgDef Config.openT) = true ∧ Config.wf (Config.cfgPos Config.openT) = true := by
  decide

/-- R10 W7 refuses OPEN fields whose receive default is not what `INIT_SETUP` wrote last. -/
theorem test_cfg_w7 : Config.wf (Config.cfgDef { Config.openT with rxSidlDef := 0 }) = false := by decide

/-! ### Decoding, words written out from the formats -/

/-- R61: 1,1,0,0,0,0,0,0. -/
theorem test_decode_rst : decode (.frame [0b11000000]) = .ok .rst := rfl
/-- R62, vector E6: [03 2C > 01]. -/
theorem test_decode_rd : decode (.frame [0b00000011, 0b00101100, 0b00000001]) = .ok (.rd 0x2C) := rfl
/-- R63, vector E3: [02 31 24]. -/
theorem test_decode_wr : decode (.frame [0b00000010, 0b00110001, 0b00100100]) = .ok (.wr 0x31 0x24) := rfl
/-- R64, R72: a write of two slots, an unknown first byte, a reset with an operand. -/
theorem test_decode_illegal : decode (.frame [0x02, 0x31]) = .error (.wrongLength 0x02 2) ∧
    decode (.frame [0x05, 0, 0]) = .error (.unknownOpcode 0x05) ∧
    decode (.frame [0xC0, 0]) = .error (.wrongLength 0xC0 2) := ⟨rfl, rfl, rfl⟩
/-- R69: `cmd_op` 00, 01, 10, 11 (program P1 and P2 of 95_test_vectors.md). -/
theorem test_decode_commands : decode (.command ⟨0b00, .kbps125, 0, 0, bytes⟩) = .ok (.init .kbps125) ∧
    decode (.command ⟨0b01, .kbps125, 0b00100100011, 0b0011, bytes⟩) = .ok (.send 0x123 3 bytes) ∧
    decode (.command ⟨0b10, .kbps125, 0b00100100011, 0, bytes⟩) = .ok (.recv 0x123) ∧
    decode (.command ⟨0b11, .kbps125, 0, 0, bytes⟩) = .error .reservedCommand := ⟨rfl, rfl, rfl, rfl⟩
/-- R71: only 1 then 0. -/
theorem test_decode_edge : decode (.edge .high .low) = .ok .irq ∧ decode (.edge .low .low) = .error .noFallingEdge ∧
    decode (.edge .low .high) = .error .noFallingEdge ∧ decode (.edge .high .high) = .error .noFallingEdge :=
  ⟨rfl, rfl, rfl, rfl⟩
/-- opcode_table.json: one word of each row. -/
theorem test_decode_table : decodeTableWord 8 0xC0 = some .rst ∧ decodeTableWord 24 0x032C00 = some (.rd 0x2C) ∧
    decodeTableWord 24 0x023124 = some (.wr 0x31 0x24) ∧ decodeTableWord 8 0b00 = some (.init .kbps125) ∧
    decodeTableWord 8 0b01 = some (.send 0 0 zeroBuf) ∧ decodeTableWord 8 0b10 = some (.recv 0) ∧
    decodeTableWord 8 0b11 = none ∧ decodeTableWord 24 0x050000 = none := by decide

/-! ### One step of each operation -/

/-- R81: the one slot of RST sends 0xC0 and leaves `RDATA`. -/
theorem test_rst_slot : seen (fun s => (s.trace, s.rdata, s.xport))
    (exec .rst { at' (.init .i0) (.slot .rst 0) with chip := [.ok 0xAA], rdata := 0x55 }) =
      some ([.tx 0xC0], 0x55, .slot .rst 1) := by decide
/-- R74: no transaction on an idle block, right after reset; at I0 of INIT it opens its frame. -/
theorem test_rst_inside : exec .rst State.reset = .refused .outsideExpansion ∧
    seen (fun s => (s.trace, s.csN, s.xport)) (exec .rst (at' (.init .i0) .idle)) =
      some ([.csL], .low, .slot .rst 0) := ⟨rfl, rfl⟩
/-- R74: at S4 of SEND a read opens no frame. -/
theorem test_rd_outside : exec (.rd 0x31) (at' (.send .s4) .idle) = .refused .outsideExpansion := rfl
/-- The words of the three frames, placed, run their first slot, the first bytes of R61 to R63. -/
theorem test_place_frames :
    seen State.trace (step ({ State.reset with chip := [.ok 0] }.withFetchWord 8 0xC0)) = some [.tx 0xC0, .csL] ∧
    seen State.trace (step ({ State.reset with chip := [.ok 0] }.withFetchWord 24 0x032C00)) = some [.tx 0x03, .csL] ∧
    seen State.trace (step ({ State.reset with chip := [.ok 0] }.withFetchWord 24 0x023124)) = some [.tx 0x02, .csL] := by
  decide
/-- R85: a frame of another transaction is not entered. -/
theorem test_rst_nested : exec .rst (at' (.send .s1) (.slot (.rd 0x30) 1)) = .refused .frameOpen := rfl
/-- Vector V-2: the third slot of [03 2C > 21]. -/
theorem test_rd_receive : seen (fun s => (s.trace, s.rdata, s.xport))
    (exec (.rd 0x2C) { at' (.recv .v3) (.slot (.rd 0x2C) 2) with chip := [.ok 0x21] }) =
      some ([.rx 0x21], 0x21, .slot (.rd 0x2C) 3) := by decide
/-- Vector S-8: the third slot of [03 30 XFAIL]; `RDATA` keeps its value. -/
theorem test_rd_fail : seen (fun s => (s.trace, s.rdata, s.errf, s.xport))
    (exec (.rd 0x30) { at' (.send .s1) (.slot (.rd 0x30) 2) with chip := [.fail], rdata := 0x77 }) =
      some ([.xfail], 0x77, true, .desel (.rd 0x30)) := by decide
/-- Vector E3: the third slot of [02 31 24] sends the value. -/
theorem test_wr_value : seen (fun s => (s.trace, s.rdata, s.xport))
    (exec (.wr 0x31 0x24) { at' (.send .s4) (.slot (.wr 0x31 0x24) 2) with chip := [.ok 0xFF], rdata := 0x08 }) =
      some ([.tx 0x24], 0x08, .slot (.wr 0x31 0x24) 3) := by decide
/-- Vector S-9: the failed start write ends SEND with E_TRANSPORT, `PHASE` stays Normal. -/
theorem test_wr_abort : seen (fun s => (s.trace, s.phase, s.op, s.tp))
    (exec (.wr 0x30 0x08) { at' (.send .s10) (.closed (.wr 0x30 0x08)) with errf := true }) =
      some ([.rsp .eTransport], .normal, .idle, .idle) := by decide
/-- Vector E2: the name "NOPE", no key of `CFG_T`, ends INIT at I2. -/
theorem test_init_unknown : seen (fun s => (s.trace, s.phase, s.op))
    (initStep (Config.cfgDef Config.openT) .i2
      { at' (.init .i2) .idle with phase := .configuring, rate := .other 99 }) =
      some ([.rsp .eUnknownRate], .uninitialized, .idle) := by decide
/-- Program P4: status 0x40 makes INIT request the mode again, status 0x00 does not. -/
theorem test_init_reissue :
    seen State.openTransaction (initStep (Config.cfgDef Config.openT) .i11 { at' (.init .i11) .idle with rdata := 0x40 }) =
      some (some (.wr 0x0F 0x00)) ∧
    seen State.openTransaction (initStep (Config.cfgDef Config.openT) .i11 { at' (.init .i11) .idle with rdata := 0x00 }) =
      some none := by decide
/-- Vector S-6: 0xFF is busy, 0xF7 is free. -/
theorem test_send_poll : seen State.pc (sendStep (Config.cfgDef Config.openT) .s2 { at' (.send .s2) .idle with rdata := 0xFF }) =
      some (.send .s3) ∧
    seen State.pc (sendStep (Config.cfgDef Config.openT) .s2 { at' (.send .s2) .idle with rdata := 0xF7 }) =
      some (.send .s4) := by decide
/-- Vector S-3: identifier 0x7FF gives [02 32 E0]. -/
theorem test_send_low : seen State.openTransaction
    (sendStep (Config.cfgDef Config.openT) .s5 { at' (.send .s5) .idle with id := 0x7FF }) =
      some (some (.wr 0x32 0xE0)) := by decide
/-- Vector V-4: 0xFE does not end the flag loop, 0x03 does. -/
theorem test_recv_flag : seen State.pc (recvStep (Config.cfgDef Config.openT) .v4 { at' (.recv .v4) .idle with rdata := 0xFE }) =
      some (.recv .v3) ∧
    seen State.pc (recvStep (Config.cfgDef Config.openT) .v4 { at' (.recv .v4) .idle with rdata := 0x03 }) =
      some (.recv .v5) := by decide
/-- Vector V-5: a length byte of 0x48 stops the model. -/
theorem test_recv_length : exec (.recv 0x123) { at' (.recv .v6) .idle with rxlen := 0x48 } =
    .fault .recvLengthOutOfRange := rfl
/-- Rows Q-1 and Q-3: the falling edge sets `RXPEND`, a steady 0 does not. -/
theorem test_irq_edge : seen (fun s => (s.rxpend, s.intPrev, s.trace)) (sampleStep .low State.reset) =
      some (true, .low, [.irq]) ∧
    seen (fun s => (s.rxpend, s.intPrev, s.trace)) (sampleStep .low { State.reset with intPrev := .low }) =
      some (false, .low, []) := by decide
/-- 95_test_vectors.md Q-1: the same in the middle of a frame. -/
theorem test_irq_in_frame : seen (fun s => (s.rxpend, s.tp, s.op))
    (exec .irq (at' (.send .s4) (.slot (.wr 0x31 0x24) 1))) = some (true, .slot 1, .send) := by decide

/-- Vector Z-1: a reset, here in the middle of a frame of SEND with `RXPEND` set, gives the reset values and an empty
trace. -/
theorem test_reset_in_frame : seen (fun s => (s.phase, s.rxpend, s.csN, s.op, s.tp, s.errf, s.intPrev, s.trace))
    (step { at' (.send .s4) (.slot (.wr 0x31 0x24) 2) with
      csN := .low, rxpend := true, intPrev := .low, moves := [.reset], trace := [.tx 0x31, .tx 0x02, .csL] }) =
      some (.uninitialized, false, .high, .idle, .idle, false, .high, []) := rfl

/-! ### Witnesses: concrete data that meet the hypotheses of the statements -/

/-- SlotsExchangeBytes, its four clauses; the transmit clause at the first and at the last slot of a write. -/
theorem witness_slotsExchange :
    (∃ s : State, s.chip = .ok 7 :: [.fail]) ∧ (∃ s : State, s.chip = []) ∧
    (∃ s s1 : State, Transaction.rst.out[0]? = some 0xC0 ∧ s.xport = .slot .rst 0 ∧ xfer s = (.ok 7, s1)) ∧
    (∃ s s1 : State, (Transaction.wr 0x31 0x24).out[2]? = some 0x24 ∧ s.xport = .slot (.wr 0x31 0x24) 2 ∧
      xfer s = (.ok 7, s1)) ∧
    ∃ s s1 : State, s.xport = .slot (.rd 0x2C) 2 ∧ xfer s = (.ok 7, s1) :=
  ⟨⟨{ State.reset with chip := [.ok 7, .fail] }, rfl⟩, ⟨State.reset, rfl⟩,
    ⟨{ at' (.init .i0) (.slot .rst 0) with chip := [.ok 7] }, _, rfl, rfl, rfl⟩,
    ⟨{ at' (.send .s4) (.slot (.wr 0x31 0x24) 2) with chip := [.ok 7] }, _, rfl, rfl, rfl⟩,
    ⟨{ at' (.recv .v3) (.slot (.rd 0x2C) 2) with chip := [.ok 7] }, _, rfl, rfl⟩⟩

/-- FailedSlotEndsExchange, at the first and at the last slot. -/
theorem witness_failedSlot :
    (∃ s s1 : State, 0 < Transaction.rst.slots ∧ s.xport = .slot .rst 0 ∧ xfer s = (.fail, s1)) ∧
    ∃ s s1 : State, 2 < (Transaction.rd 0x30).slots ∧ s.xport = .slot (.rd 0x30) 2 ∧ xfer s = (.fail, s1) :=
  ⟨⟨{ at' (.init .i0) (.slot .rst 0) with chip := [.fail] }, _, by decide, rfl, rfl⟩,
    ⟨{ at' (.send .s1) (.slot (.rd 0x30) 2) with chip := [.fail] }, _, by decide, rfl, rfl⟩⟩

/-- ReleaseGuaranteed, from the first slot and from after the last. -/
theorem witness_release :
    (∃ s : State, s.xport = .slot (.rd 0x30) 0 ∧
      s.moves = List.replicate ((Transaction.rd 0x30).slots - 0 + 2) .run ++ []) ∧
    ∃ s : State, s.xport = .slot (.rd 0x30) 3 ∧
      s.moves = List.replicate ((Transaction.rd 0x30).slots - 3 + 2) .run ++ [.sample .low] :=
  ⟨⟨{ at' (.send .s1) (.slot (.rd 0x30) 0) with moves := List.replicate 5 .run }, rfl, rfl⟩,
    ⟨{ at' (.send .s1) (.slot (.rd 0x30) 3) with moves := [.run, .run, .sample .low] }, rfl, rfl⟩⟩

/-- TransactionsRunToTheirEnd and FrameOpensAndCloses: a micro-step that is RST, one that is RD and one that is WR. -/
theorem witness_inside :
    (∃ s : State, currentTransaction Config.cfg s = some .rst ∧ [(0 : Byte)].length = Transaction.rst.slots ∧
      s.xport = .idle ∧ s.moves = List.replicate (Transaction.rst.slots + 4) .run ++ [] ∧
      s.chip = [(0 : Byte)].map Reply.ok ++ []) ∧
    (∃ s : State, currentTransaction Config.cfg s = some (.rd 0x2C) ∧
      [(0 : Byte), 0, 0x21].length = (Transaction.rd 0x2C).slots ∧ s.xport = .idle ∧
      s.moves = List.replicate ((Transaction.rd 0x2C).slots + 4) .run ++ [] ∧
      s.chip = [(0 : Byte), 0, 0x21].map Reply.ok ++ []) ∧
    ∃ s : State, currentTransaction Config.cfg s = some (.wr 0x31 0x24) ∧
      [(0 : Byte), 0, 0].length = (Transaction.wr 0x31 0x24).slots ∧ s.xport = .idle ∧
      s.moves = List.replicate ((Transaction.wr 0x31 0x24).slots + 4) .run ++ [] ∧
      s.chip = [(0 : Byte), 0, 0].map Reply.ok ++ [] :=
  ⟨⟨{ at' (.init .i0) .idle with moves := List.replicate 5 .run, chip := [.ok 0] }, rfl, rfl, rfl, rfl, rfl⟩,
    ⟨{ at' (.recv .v3) .idle with moves := List.replicate 7 .run, chip := [.ok 0, .ok 0, .ok 0x21] },
      rfl, rfl, rfl, rfl, rfl⟩,
    ⟨{ at' (.send .s4) .idle with id := 0x123, moves := List.replicate 7 .run, chip := [.ok 0, .ok 0, .ok 0] },
      rfl, rfl, rfl, rfl, rfl⟩⟩

/-- TransactionsRunToTheirEnd, its last clause: SEND at S1 opens the frame of its poll. -/
theorem witness_opening : ∃ s u : State, step s = .next u ∧ s.openTransaction = none ∧
    u.openTransaction = some (.rd 0x30) :=
  ⟨{ at' (.send .s1) .idle with moves := [.run] }, _, rfl, rfl, rfl⟩

/-- MicroStepTransactionRuns, for INIT at I0 and for SEND at S1. -/
theorem witness_microStep :
    (∃ s : State, currentTransaction Config.cfg s = some .rst ∧ [(0 : Byte)].length = Transaction.rst.slots ∧
      s.xport = .idle ∧ s.moves = List.replicate (Transaction.rst.slots + 3) .run ++ [] ∧
      s.chip = [(0 : Byte)].map Reply.ok ++ []) ∧
    ∃ s : State, currentTransaction Config.cfg s = some (.rd 0x30) ∧
      [(0 : Byte), 0, 8].length = (Transaction.rd 0x30).slots ∧ s.xport = .idle ∧
      s.moves = List.replicate ((Transaction.rd 0x30).slots + 3) .run ++ [] ∧
      s.chip = [(0 : Byte), 0, 8].map Reply.ok ++ [] :=
  ⟨⟨{ at' (.init .i0) .idle with moves := List.replicate 4 .run, chip := [.ok 0] }, rfl, rfl, rfl, rfl, rfl⟩,
    ⟨{ at' (.send .s1) .idle with moves := List.replicate 6 .run, chip := [.ok 0, .ok 0, .ok 8] }, rfl, rfl, rfl, rfl,
      rfl⟩⟩

/-- NoNesting, its clauses. -/
theorem witness_noNesting :
    (∃ s : State, s.openTransaction = some (.rd 0x30) ∧ Transaction.rst ≠ .rd 0x30) ∧
    (∃ s : State, s.openTransaction = some .rst ∧ s.op = .init) ∧
    (∃ s : State, s.openTransaction = some (.rd 0x30) ∧ s.op = .send) ∧
    (∃ s : State, s.openTransaction = some (.rd 0x2C) ∧ s.op = .recv) ∧
    ∃ s : State, s.openTransaction = some .rst ∧ s.op = .idle :=
  ⟨⟨at' (.send .s1) (.closed (.rd 0x30)), rfl, by decide⟩, ⟨at' (.init .i0) (.desel .rst), rfl, rfl⟩,
    ⟨at' (.send .s1) (.slot (.rd 0x30) 0), rfl, rfl⟩, ⟨at' (.recv .v3) (.slot (.rd 0x2C) 3), rfl, rfl⟩,
    ⟨at' .idle (.slot .rst 0), rfl, rfl⟩⟩

/-- TransactionFrame: away from F6 by a transaction that is no read, and at F6 with an abort of INIT. -/
theorem witness_transactionFrame :
    (∃ s u : State, exec Transaction.rst.instr s = .next u ∧ (∀ a, Transaction.rst ≠ .rd a) ∧ s.xport ≠ .closed .rst) ∧
    ∃ s u : State, exec Transaction.rst.instr s = .next u ∧ s.xport = .closed .rst ∧ s.op = .init ∧ s.errf = true :=
  ⟨⟨at' (.init .i0) (.desel .rst), _, rfl, by decide, by decide⟩,
    ⟨{ at' (.init .i0) (.closed .rst) with errf := true }, _, rfl, rfl, rfl, rfl⟩⟩

/-- From some number on, no `RateName.other` is in a finite list. -/
theorem other_not_mem (l : List RateName) : ∃ n, ∀ m, n ≤ m → RateName.other m ∉ l := by
  induction l with
  | nil => exact ⟨0, fun _ _ => by simp⟩
  | cons r l ih =>
    obtain ⟨n, hn⟩ := ih
    cases r with
    | kbps125 => exact ⟨n, fun m hm => by simpa using hn m hm⟩
    | other k =>
      refine ⟨max n (k + 1), fun m hm => ?_⟩
      have h := hn m (by omega)
      simp only [List.mem_cons, RateName.other.injEq, not_or]
      exact ⟨by omega, h⟩

/-- A name that is no key of the table exists. -/
theorem exists_unknown_rate : ∃ r, Config.cfg.lookup r = none := by
  obtain ⟨n, hn⟩ := other_not_mem (Config.cfg.openF.rateTable.map Prod.fst)
  refine ⟨.other n, ?_⟩
  have h := hn n (Nat.le_refl n)
  unfold Cfg.lookup
  generalize Config.cfg.openF.rateTable = l at h
  induction l with
  | nil => rfl
  | cons w l ih =>
    simp only [List.map_cons, List.mem_cons, not_or] at h
    have : (RateName.other n == w.1) = false := by simpa using h.1
    rw [List.lookup_cons, this]
    exact ih h.2

/-- "125KBPS" is a key of the table (W5). -/
theorem exists_known_rate : ∃ v, Config.cfg.lookup .kbps125 = some v := by
  have h := (Config.wf_parts Config.cfg_wf).2.2.1
  simp only [Cfg.w5, Bool.and_eq_true] at h
  have h := h.2
  unfold Cfg.lookup
  generalize Config.cfg.openF.rateTable = l at h
  induction l with
  | nil => simp at h
  | cons w l ih =>
    rw [List.lookup_cons]
    cases hw : RateName.kbps125 == w.1 with
    | true => exact ⟨w.2, rfl⟩
    | false =>
      simp only [List.map_cons, List.contains_cons, hw, Bool.false_or] at h
      exact ih h

/-- The setup list is not empty (W6). -/
theorem setup_nonempty : 0 < Config.cfg.openF.initSetup.length := by
  have h := (Config.wf_parts Config.cfg_wf).2.2.2.1
  simp only [Cfg.w6, Bool.and_eq_true] at h
  have h := h.1.1.1.1.2
  rw [List.any_eq_true] at h
  obtain ⟨w, hw, -⟩ := h
  exact List.length_pos_of_mem hw

/-- InitLooksUpTheRate: both answers of the lookup occur. -/
theorem witness_lookup :
    (∃ s : State, ∃ v, Config.cfg.openF.rateTable.lookup s.rate = some v) ∧
    ∃ s : State, Config.cfg.openF.rateTable.lookup s.rate = none := by
  obtain ⟨v, hv⟩ := exists_known_rate
  obtain ⟨r, hr⟩ := exists_unknown_rate
  exact ⟨⟨State.reset, v, hv⟩, ⟨{ State.reset with rate := r }, hr⟩⟩

/-- InitWritesSetup: the first entry, the last entry, and the first index behind the list. -/
theorem witness_setup :
    0 < Config.cfg.openF.initSetup.length ∧
    Config.cfg.openF.initSetup.length - 1 < Config.cfg.openF.initSetup.length ∧
    Config.cfg.openF.initSetup.length ≤ Config.cfg.openF.initSetup.length :=
  ⟨setup_nonempty, Nat.sub_lt setup_nonempty Nat.one_pos, Nat.le_refl _⟩

/-- InitArmsAndRequestsMode: I11 with a status byte that shows normal mode, and with one that does not. -/
theorem witness_status : Config.cfg.isNormal 0x1F = true ∧ Config.cfg.isNormal 0x20 = false := ⟨rfl, rfl⟩

/-- UnknownRateRun. -/
theorem witness_unknownRateRun : ∃ (p : CmdPort) (s : State), Config.cfg.lookup p.rate = none ∧ p.op = 0b00 ∧
    s.pc = .idle ∧ s.xport = .idle ∧ s.port = p :: [] ∧ s.moves = List.replicate 8 .run ++ [] ∧
    s.chip = .ok 0 :: [] := by
  obtain ⟨r, hr⟩ := exists_unknown_rate
  exact ⟨⟨0b00, r, 0, 0, zeroBuf⟩,
    { State.reset with port := [⟨0b00, r, 0, 0, zeroBuf⟩], moves := List.replicate 8 .run, chip := [.ok 0] },
    hr, rfl, rfl, rfl, rfl, rfl, rfl⟩

/-- InitRun, with a status byte `d` (0x00 shows normal mode, 0xE0 does not): every byte of the bus is `d`. -/
theorem witness_initRun (d : Byte) : ∃ (p : CmdPort) (v : Triple) (bs : List Byte) (s : State),
    Config.cfg.lookup p.rate = some v ∧ p.op = 0b00 ∧ s.pc = .idle ∧ s.xport = .idle ∧ s.port = p :: [] ∧
    bs.length = 1 + 3 * (7 + Config.cfg.openF.initSetup.length + if inNormalMode Config.cfg d then 0 else 1) ∧
    bs.getD (3 + 3 * (6 + Config.cfg.openF.initSetup.length)) 0 = d ∧
    s.moves = List.replicate (initSteps Config.cfg.openF.initSetup.length (inNormalMode Config.cfg d)) .run ++ [] ∧
    s.chip = bs.map Reply.ok ++ [] := by
  obtain ⟨v, hv⟩ := exists_known_rate
  refine ⟨⟨0b00, .kbps125, 0, 0, zeroBuf⟩, v,
    List.replicate (1 + 3 * (7 + Config.cfg.openF.initSetup.length + if inNormalMode Config.cfg d then 0 else 1)) d,
    { State.reset with
      port := [⟨0b00, .kbps125, 0, 0, zeroBuf⟩]
      moves := List.replicate (initSteps Config.cfg.openF.initSetup.length (inNormalMode Config.cfg d)) .run
      chip := (List.replicate
        (1 + 3 * (7 + Config.cfg.openF.initSetup.length + if inNormalMode Config.cfg d then 0 else 1)) d).map Reply.ok },
    hv, rfl, rfl, rfl, rfl, by simp, ?_, by simp, by simp⟩
  rw [List.getD_eq_getElem?_getD, List.getElem?_replicate, if_pos (by omega)]
  rfl

/-- ControllerOperationFrames: each of the three takes a step. -/
theorem witness_controllerSteps :
    (∃ s u : State, exec (.init .kbps125) s = .next u) ∧ (∃ s u : State, exec (.send 0x123 3 bytes) s = .next u) ∧
    ∃ s u : State, exec (.recv 0x123) s = .next u :=
  ⟨⟨State.reset, _, rfl⟩, ⟨at' (.send .s4) .idle, _, rfl⟩, ⟨{ at' (.recv .v0) .idle with rxpend := true }, _, rfl⟩⟩

/-- SendAccepted: the smallest and the largest length. RefusedCommands: the lengths 9 and 15. -/
theorem witness_lengths : (0 : BitVec 4).toNat ≤ 8 ∧ (8 : BitVec 4).toNat ≤ 8 ∧ 8 < (9 : BitVec 4).toNat ∧
    8 < (15 : BitVec 4).toNat := by decide

/-- RefusedCommands, its clauses about `PHASE` and about a busy block. -/
theorem witness_refused :
    (∃ s : State, s.phase ≠ .normal) ∧ (∃ s : State, s.op = .send ∨ s.op = .recv) ∧
    (∃ s : State, s.op = .init ∨ s.op = .recv) ∧ (∃ s : State, s.op = .init ∨ s.op = .send) ∧
    (∃ s : State, s.xport = .idle ∧ currentTransaction Config.cfg s ≠ some .rst) ∧
    ∃ s : State, s.xport = .idle ∧ s.op = .send ∧ currentTransaction Config.cfg s ≠ some (.rd 0x31) :=
  ⟨⟨State.reset, by decide⟩, ⟨at' (.send .s0) .idle, .inl rfl⟩, ⟨at' (.init .i1) .idle, .inl rfl⟩,
    ⟨at' (.init .i1) .idle, .inl rfl⟩, ⟨State.reset, rfl, by decide⟩,
    ⟨at' (.send .s1) .idle, rfl, rfl, by simp [at', currentTransaction, sendTransaction]; decide⟩⟩

/-- SendWritesData: the last byte of a full payload, the end of an empty and of a full one, the return at index 7. -/
theorem witness_sendData :
    (∃ s : State, s.idx.toNat < s.len.toNat ∧ bufGet s.txbuf s.idx.toNat = some 8) ∧
    (∃ s : State, s.len.toNat ≤ s.idx.toNat ∧ s.len = 0) ∧ (∃ s : State, s.len.toNat ≤ s.idx.toNat ∧ s.len = 8) ∧
    ∃ s : State, s.idx.toNat < 8 ∧ s.idx = 7 :=
  ⟨⟨{ State.reset with idx := 7, len := 8, txbuf := bytes }, by decide, rfl⟩, ⟨State.reset, by decide, rfl⟩,
    ⟨{ State.reset with idx := 8, len := 8 }, by decide, rfl⟩, ⟨{ State.reset with idx := 7 }, by decide, rfl⟩⟩

/-- PollBudgetRun, for every number of busy polls up to 50: the byte read is 0xFF. -/
theorem witness_pollBudget (n : Nat) (h : n ≤ 50) : ∃ (bs : List (Byte × Byte × Byte)) (s : State), n ≤ 50 ∧
    bs.length = n ∧ (∀ b ∈ bs, busy Config.cfg b.2.2 = true) ∧ s.pc = .send .s1 ∧ s.xport = .idle ∧ s.cnt = 0 ∧
    s.moves = List.replicate (9 * n) .run ++ [] ∧
    s.chip = bs.flatMap (fun b => [Reply.ok b.1, Reply.ok b.2.1, Reply.ok b.2.2]) ++ [] := by
  refine ⟨List.replicate n (0, 0, 0xFF),
    { at' (.send .s1) .idle with
      moves := List.replicate (9 * n) .run
      chip := (List.replicate n ((0 : Byte), (0 : Byte), (0xFF : Byte))).flatMap
        fun b => [Reply.ok b.1, Reply.ok b.2.1, Reply.ok b.2.2] },
    h, by simp, ?_, rfl, rfl, rfl, by simp, by simp⟩
  intro b hb
  rw [(List.mem_replicate.1 hb).2]
  rfl

/-- SendRun, for every legal length: every byte of the bus is 0, so the first poll is free. -/
theorem witness_sendRun (n : BitVec 4) (h : n.toNat ≤ 8) : ∃ (p : CmdPort) (bs : List Byte) (s : State),
    p.op = 0b01 ∧ p.len = n ∧ p.len.toNat ≤ 8 ∧ s.phase = .normal ∧ s.pc = .idle ∧ s.xport = .idle ∧ s.port = p :: [] ∧
    bs.length = 3 * (7 + p.len.toNat) ∧ busy Config.cfg (bs.getD 2 0) = false ∧
    s.moves = List.replicate (sendSteps p.len.toNat) .run ++ [] ∧ s.chip = bs.map Reply.ok ++ [] := by
  refine ⟨⟨0b01, .kbps125, 0x123, n, bytes⟩, List.replicate (3 * (7 + n.toNat)) 0,
    { at' .idle .idle with
      port := [⟨0b01, .kbps125, 0x123, n, bytes⟩]
      moves := List.replicate (sendSteps n.toNat) .run
      chip := (List.replicate (3 * (7 + n.toNat)) (0 : Byte)).map Reply.ok },
    rfl, rfl, h, rfl, rfl, rfl, rfl, by simp, ?_, by simp, by simp⟩
  rw [List.getD_eq_getElem?_getD, List.getElem?_replicate, if_pos (by omega)]
  rfl

/-- RecvReadsAndChecksLength: 0, 8, 9 and 255. -/
theorem witness_recvLength : (0 : Byte).toNat ≤ 8 ∧ (8 : Byte).toNat ≤ 8 ∧ 8 < (9 : Byte).toNat ∧
    8 < (255 : Byte).toNat := by decide

/-- RecvReadsData: the last byte of a full frame, the end of an empty and of a full one, the return at index 7. -/
theorem witness_recvData :
    (∃ s : State, s.idx.toNat < s.rxlen.toNat ∧ s.idx.toNat < 8 ∧ s.idx = 7) ∧
    (∃ s : State, s.rxlen.toNat ≤ s.idx.toNat ∧ s.rxlen = 0) ∧
    (∃ s : State, s.rxlen.toNat ≤ s.idx.toNat ∧ s.rxlen = 8) ∧ ∃ s : State, s.idx.toNat < 8 ∧ s.idx = 7 :=
  ⟨⟨{ State.reset with idx := 7, rxlen := 8 }, by decide, by decide, rfl⟩, ⟨State.reset, by decide, rfl⟩,
    ⟨{ State.reset with idx := 8, rxlen := 8 }, by decide, rfl⟩, ⟨{ State.reset with idx := 7 }, by decide, rfl⟩⟩

/-- RecvFastPathRun. -/
theorem witness_recvFastPath : ∃ (p : CmdPort) (s : State), p.op = 0b10 ∧ s.phase = .normal ∧ s.pc = .idle ∧
    s.xport = .idle ∧ s.rxpend = false ∧ s.port = p :: [] ∧ s.moves = .run :: .run :: [] :=
  ⟨⟨0b10, .kbps125, 0x123, 0, zeroBuf⟩,
    { at' .idle .idle with port := [⟨0b10, .kbps125, 0x123, 0, zeroBuf⟩], moves := [.run, .run] },
    rfl, rfl, rfl, rfl, rfl, rfl, rfl⟩

/-- RecvLoopIsUnbounded, for every number of rounds: the flag byte is 0xFE. -/
theorem witness_recvLoop (n : Nat) : ∃ (bs : List (Byte × Byte × Byte)) (s : State), bs.length = n ∧
    (∀ b ∈ bs, b.2.2 &&& 0x01 = 0) ∧ s.pc = .recv .v3 ∧ s.xport = .idle ∧
    s.moves = List.replicate (8 * n) .run ++ [] ∧
    s.chip = bs.flatMap (fun b => [Reply.ok b.1, Reply.ok b.2.1, Reply.ok b.2.2]) ++ [] := by
  refine ⟨List.replicate n (0, 0, 0xFE),
    { at' (.recv .v3) .idle with
      moves := List.replicate (8 * n) .run
      chip := (List.replicate n ((0 : Byte), (0 : Byte), (0xFE : Byte))).flatMap
        fun b => [Reply.ok b.1, Reply.ok b.2.1, Reply.ok b.2.2] },
    by simp, ?_, rfl, rfl, by simp, by simp⟩
  intro b hb
  rw [(List.mem_replicate.1 hb).2]
  decide

/-- RecvRun, for every length byte up to 8. -/
theorem witness_recvRun (n : Byte) (h : n.toNat ≤ 8) :
    ∃ (p : CmdPort) (hd tl : List Byte) (f : Byte) (data : List (Byte × Byte × Byte)) (s : State),
    p.op = 0b10 ∧ s.phase = .normal ∧ s.pc = .idle ∧ s.xport = .idle ∧ s.rxpend = true ∧ s.port = p :: [] ∧
    hd.length = 12 ∧ hd.getD 8 0 = f ∧ hd.getD 11 0 = n ∧ tl.length = 12 ∧ rxFull f = true ∧ n.toNat ≤ 8 ∧
    data.length = n.toNat ∧ s.moves = List.replicate (recvSteps n.toNat) .run ++ [] ∧
    s.chip = hd.map Reply.ok ++ data.flatMap (fun b => [Reply.ok b.1, Reply.ok b.2.1, Reply.ok b.2.2]) ++
      tl.map Reply.ok ++ [] :=
  ⟨⟨0b10, .kbps125, 0x123, 0, zeroBuf⟩, [0, 0, 0, 0, 0, 0, 0, 0, 1, 0, 0, n], List.replicate 12 0, 1,
    List.replicate n.toNat (0, 0, 0x5A),
    { at' .idle .idle with
      rxpend := true
      port := [⟨0b10, .kbps125, 0x123, 0, zeroBuf⟩]
      moves := List.replicate (recvSteps n.toNat) .run
      chip := [(0 : Byte), 0, 0, 0, 0, 0, 0, 0, 1, 0, 0, n].map Reply.ok ++
        (List.replicate n.toNat ((0 : Byte), (0 : Byte), (0x5A : Byte))).flatMap
          (fun b => [Reply.ok b.1, Reply.ok b.2.1, Reply.ok b.2.2]) ++ (List.replicate 12 (0 : Byte)).map Reply.ok },
    rfl, rfl, rfl, rfl, rfl, rfl, rfl, rfl, rfl, rfl, rfl, h, by simp, by simp, by simp⟩

/-- FallingEdgeSetsPendingOnly: an edge, and no edge. -/
theorem witness_pin : (∃ s : State, s.intPrev = .high ∧ Level.low = .low) ∧
    ∃ s : State, ¬(s.intPrev = .high ∧ Level.low = .low) :=
  ⟨⟨State.reset, rfl, rfl⟩, ⟨{ State.reset with intPrev := .low }, by decide⟩⟩

/-- PendingFlagReadOnlyAtV0: an operation other than IRQ and RECV, and RECV away from V0. -/
theorem witness_flagRead :
    (Instr.rst ≠ .irq ∧ ¬((∃ id, Instr.rst = .recv id) ∧ State.reset.pc = .recv .v0)) ∧
    Instr.recv 1 ≠ .irq ∧ ¬((∃ id, Instr.recv 1 = .recv id) ∧ (at' (.recv .v1) .idle).pc = .recv .v0) :=
  ⟨⟨by decide, fun h => by cases h.2⟩, by decide, fun h => by cases h.2⟩

/-- PendingFlagClearedOnlyAtV0: cleared by V0, and by a reset of the block. -/
theorem witness_flagCleared :
    (∃ s u : State, step s = .next u ∧ s.rxpend = true ∧ u.rxpend = false ∧ s.pc = .recv .v0) ∧
    ∃ s u : State, step s = .next u ∧ s.rxpend = true ∧ u.rxpend = false ∧ s.pc = .idle :=
  ⟨⟨{ at' (.recv .v0) .idle with rxpend := true, moves := [.run] }, _, rfl, rfl, rfl, rfl⟩,
    ⟨{ at' .idle .idle with rxpend := true, moves := [.reset] }, _, rfl, rfl, rfl, rfl⟩⟩

/-- StepRunsWhatItFetches, its clauses with a hypothesis. -/
theorem witness_fetch :
    decode (.command ⟨0b01, .kbps125, 0x123, 3, bytes⟩) = .ok (.send 0x123 3 bytes) ∧
    (⟨0b11, .kbps125, 0, 0, bytes⟩ : CmdPort).op = 0b11 ∧
    decodeTableWord 24 0x023124 = some (Transaction.wr 0x31 0x24).instr ∧
    decodeTableWord 8 0b01 = some (.send 0 0 zeroBuf) ∧
    (at' (.send .s4) (.closed (.wr 0x31 0x24))).openTransaction = some (.wr 0x31 0x24) := ⟨rfl, rfl, rfl, rfl, rfl⟩

/-- PortNotSampledWhileBusy, TraceGrowsByOneEvent, LatchesHold: a step of a busy block, with a command presented. -/
theorem witness_busyStep :
    (∃ s u : State, step s = .next u ∧ s.pc ≠ .idle ∧ s.port ≠ []) ∧
    ∃ s u : State, exec (.send 0x7FF 8 bytes) s = .next u ∧ s.pc ≠ .idle :=
  ⟨⟨{ at' (.send .s4) .idle with moves := [.run], port := [⟨0b10, .kbps125, 1, 0, bytes⟩] }, _, rfl, by decide,
      by decide⟩,
    ⟨at' (.send .s4) .idle, _, rfl, by decide⟩⟩

/-- PhaseWrittenByInitOnly: by INIT itself, and by a transaction inside INIT. -/
theorem witness_phaseWritten :
    (∃ s u : State, exec (.init .kbps125) s = .next u ∧ u.phase ≠ s.phase) ∧
    ∃ s u : State, exec .rst s = .next u ∧ u.phase ≠ s.phase :=
  ⟨⟨at' .idle .idle, _, rfl, by decide⟩, ⟨{ at' (.init .i0) (.closed .rst) with errf := true }, _, rfl, by decide⟩⟩

/-- RdataWrittenByReadOnly. -/
theorem witness_rdataWritten : ∃ s u : State, exec (.rd 0x2C) s = .next u ∧ u.rdata ≠ s.rdata :=
  ⟨{ at' (.recv .v3) (.slot (.rd 0x2C) 2) with chip := [.ok 0x21] }, _, rfl, by decide⟩

/-- A state in the middle of a frame of SEND: two slots of [02 31 24] done, with the trace that led there. -/
def midFrame : State :=
  { at' (.send .s4) (.slot (.wr 0x31 0x24) 2) with
    csN := .low, id := 0x123, len := 3, moves := [.run], chip := [.ok 0], trace := [.tx 0x31, .tx 0x02, .csL] }

/-- GatingKept, PhaseTrackingKept, CounterBoundsKept, TraceLegalityKept, AddressClosureKept: the invariants hold together in
the middle of a frame, and the machine takes a step there. -/
theorem witness_invariants : Gated midFrame ∧ PhaseTracksOperation midFrame ∧ CountersBounded midFrame ∧
    TraceLegal midFrame ∧ AddressesClosed midFrame ∧ ∃ u, step midFrame = .next u := by
  refine ⟨?_, rfl, ?_, ⟨by decide, rfl, rfl⟩, ?_, _, rfl⟩
  · unfold Gated
    exact ⟨by decide, (fun h => by cases h), (fun h => by cases h)⟩
  · exact ⟨by decide, trivial⟩
  · have h31 : (0x31 : Addr) ∈ Config.cfg.addresses := by
      change _ ∈ (Config.cfgDef Config.openT).addresses
      decide
    refine ⟨fun a h => ?_, fun t a h ha => ?_⟩
    · have : a ∈ [(0x31 : Addr)] := h
      rw [List.mem_singleton.1 this]
      exact h31
    · cases h
      cases ha
      exact h31

/-- OnlyTheLengthFault: RECV at V6 with a length byte of 9, and index 0, is within the bounds and faults. -/
theorem witness_lengthFault : ∃ (s : State) (f : Fault), CountersBounded s ∧ step s = .fault f :=
  ⟨{ at' (.recv .v6) .idle with rxlen := 9, moves := [.run] }, .recvLengthOutOfRange, rfl, rfl⟩

end Sys2Proof.Tests
end

section
/-!
PROOF. The default register map of spec 00_scope.md R8, over the well-formed configuration of R10.
-/

namespace Sys2Proof.Config

/-- `IS_NORMAL` of the configuration is a mask of the three mode bits (R8). -/
theorem cfg_isNormal (b : Byte) : cfg.isNormal b = ((b &&& 0xE0) == 0x00) := rfl

/-- The mask 0xE0 leaves nothing of a byte exactly when its bits 7, 6 and 5 are zero. -/
theorem and_0xE0_eq_zero_iff (b : Byte) :
    b &&& 0xE0 = 0x00 ↔ b.getLsbD 7 = false ∧ b.getLsbD 6 = false ∧ b.getLsbD 5 = false := by
  constructor
  · intro h
    have masked (i : Nat) : (b &&& 0xE0).getLsbD i = (0x00 : Byte).getLsbD i := by rw [h]
    exact ⟨by simpa using masked 7, by simpa using masked 6, by simpa using masked 5⟩
  · rintro ⟨h7, h6, h5⟩
    refine BitVec.eq_of_getLsbD_eq fun i hi => ?_
    interval_cases i <;> simp_all

/-- `IS_NORMAL` of the configuration reads bits 7 to 5 of the status byte (R8). -/
theorem cfg_isNormal_bits (b : Byte) :
    cfg.isNormal b = (!b.getLsbD 7 && !b.getLsbD 6 && !b.getLsbD 5) := by
  rw [cfg_isNormal, Bool.eq_iff_iff, beq_iff_eq, and_0xE0_eq_zero_iff]
  simp [and_assoc]

/-- Settles O6: the fields are those of `cfgDef` whatever the OPEN fields are; `IS_NORMAL` is read bit by bit, and W1 to
W8 hold because the OPEN fields were taken among the well-formed ones. -/
theorem defaultRegisterMap : Obligations.DefaultRegisterMap :=
  ⟨rfl, rfl, rfl, rfl, rfl, rfl, rfl, rfl, cfg_isNormal_bits, cfg_wf⟩

end Sys2Proof.Config
end

section
/-!
PROOF. A step emits at most one event (spec 00_scope.md R13). What each shared operation, each return from a
transaction and each micro-step does to the trace, then one operation at a time.
-/

namespace Sys2Proof.Machine

/-- `u` has the trace of `s`, or one event in front of it. -/
def TraceGrows (s u : State) : Prop := u.trace = s.trace ∨ ∃ e, u.trace = e :: s.trace

/-- A step without an event. -/
theorem TraceGrows.keep {s u : State} (h : u.trace = s.trace) : TraceGrows s u := .inl h

/-- A step with the one event `e`. -/
theorem TraceGrows.add {s u : State} (e : Event) (h : u.trace = e :: s.trace) : TraceGrows s u := .inr ⟨e, h⟩

/-! ### Shared operations -/

@[simp] theorem acceptInit_trace (r : RateName) (s : State) : (acceptInit r s).trace = .cmd (.init r) :: s.trace := rfl

@[simp] theorem acceptSend_trace (i : BitVec 11) (n : BitVec 4) (d : Buf) (s : State) :
    (acceptSend i n d s).trace = .cmd (.send i (payload n d)) :: s.trace := rfl

@[simp] theorem acceptRecv_trace (i : BitVec 11) (s : State) : (acceptRecv i s).trace = .cmd (.recv i) :: s.trace := rfl

@[simp] theorem sendPrepared_trace (l : SendLabel) (s : State) : (sendPrepared l s).trace = s.trace := rfl

/-- The abort procedure gives the response of the error, if the error is reported and somebody waits for it
(60_exceptions.md R155). -/
theorem raise_traceGrows (e : ErrorKind) (s : State) : TraceGrows s (raise e s) := by
  have report_traceGrows (u : State) (hu : u.trace = s.trace) : TraceGrows s (report e u) := by
    unfold report
    cases e.reported with
    | none => exact .keep hu
    | some r => exact .add (.rsp r) (by rw [emit_trace, hu])
  unfold raise
  cases s.pc with
  | idle => exact .keep rfl
  | init l => exact report_traceGrows _ rfl
  | send l => exact report_traceGrows _ rfl
  | recv l => exact report_traceGrows _ rfl

/-- A byte slot shows the byte it sent or received, or its failure; T_SLOT past the last slot shows nothing. -/
theorem slotStep_traceGrows (t : Transaction) (k : Nat) (s : State) : TraceGrows s (slotStep t k s) := by
  rcases slotStep_cases t k s with ⟨o, b, s1, -, hx, h⟩ | ⟨a, b, s1, -, -, hx, h⟩ | ⟨s1, -, hx, h⟩ | ⟨-, h⟩
  · obtain ⟨c, d, rfl⟩ := xfer_frame hx
    exact .add (.tx o) (by rw [h]; rfl)
  · obtain ⟨c, d, rfl⟩ := xfer_frame hx
    exact .add (.rx b) (by rw [h]; rfl)
  · obtain ⟨c, d, rfl⟩ := xfer_frame hx
    exact .add .xfail (by rw [h]; rfl)
  · exact .keep (by rw [h])

/-! ### The return from a transaction shows nothing -/

@[simp] theorem initReturn_trace (l : InitLabel) (s : State) : (initReturn l s).trace = s.trace := rfl

@[simp] theorem sendReturn_trace (l : SendLabel) (s : State) : (sendReturn l s).trace = s.trace := by
  cases l <;> rfl

/-- The return to RECV latches what was read, and shows nothing (43_recv_interrupt.md R136). -/
theorem recvReturn_trace {l : RecvLabel} {s u : State} (h : recvReturn l s = .next u) : u.trace = s.trace := by
  rcases recvReturn_next h with ⟨-, rfl⟩ | ⟨b, -, -, rfl⟩ | ⟨l', -, rfl⟩ | ⟨-, rfl⟩ <;> rfl

/-- F6 shows nothing on a return, and the response of the abort otherwise (40_transport.md R80). -/
theorem finishFrame_traceGrows {s u : State} (h : finishFrame s = .next u) : TraceGrows s u := by
  rcases finishFrame_next h with ⟨-, rfl⟩ | ⟨-, -, rfl⟩ | ⟨l, -, -, rfl⟩ | ⟨l, -, -, rfl⟩ | ⟨l, -, -, hr⟩
  · exact raise_traceGrows .transportError s
  · exact .keep (leaveFrame_trace s)
  · exact .keep (by simp)
  · exact .keep (by simp)
  · exact .keep (by simpa using recvReturn_trace hr)

/-! ### The operations -/

/-- F1 and F5 show the two edges of chip-select; the slots and F6 are above (40_transport.md R80). -/
theorem transact_traceGrows {c : Cfg} {t : Transaction} {s u : State} (h : transact c t s = .next u) :
    TraceGrows s u := by
  rcases transact_next h with ⟨-, -, rfl⟩ | ⟨k, -, rfl⟩ | ⟨-, rfl⟩ | ⟨-, hf⟩
  · exact .add .csL (openFrame_trace t s)
  · exact slotStep_traceGrows t k s
  · exact .add .csH (closeFrame_trace t s)
  · exact finishFrame_traceGrows hf

/-- A micro-step of INIT, by the table of 41_initialize.md R104. -/
theorem initStep_traceGrows {c : Cfg} {l : InitLabel} {s u : State} (h : initStep c l s = .next u) :
    TraceGrows s u := by
  rcases initStep_next h with ⟨t, -, rfl⟩ | ⟨-, rfl⟩ | ⟨v, -, -, rfl⟩ | ⟨-, -, rfl⟩ | ⟨j, -, -, rfl⟩ | ⟨-, -, rfl⟩ |
    ⟨-, rfl⟩
  · exact .add .csL (openFrame_trace t s)
  · exact .add (.dly Config.tSettleMs) rfl
  · exact .keep rfl
  · exact raise_traceGrows .unknownBitRate s
  · exact .keep rfl
  · exact .keep rfl
  · exact .add (.rsp .ok) rfl

/-- A micro-step of SEND, by the table of 42_send.md R118. -/
theorem sendStep_traceGrows {c : Cfg} {l : SendLabel} {s u : State} (h : sendStep c l s = .next u) :
    TraceGrows s u := by
  rcases sendStep_next h with ⟨t, -, rfl⟩ | ⟨-, rfl⟩ | ⟨-, rfl⟩ | ⟨-, rfl⟩ | ⟨-, -, rfl⟩ | ⟨-, rfl⟩
  · exact .add .csL (by simp)
  · exact .keep rfl
  · exact .keep rfl
  · exact .add (.dly Config.tPollMs) rfl
  · exact .keep rfl
  · exact .add (.rsp .ok) rfl

/-- A micro-step of RECV, by the table of 43_recv_interrupt.md R136. -/
theorem recvStep_traceGrows {c : Cfg} {l : RecvLabel} {s u : State} (h : recvStep c l s = .next u) :
    TraceGrows s u := by
  rcases recvStep_next h with ⟨t, -, rfl⟩ | ⟨-, -, rfl⟩ | ⟨-, -, rfl⟩ | ⟨-, rfl⟩ | ⟨-, -, rfl⟩ | ⟨-, -, rfl⟩ | ⟨-, rfl⟩
  · exact .add .csL (openFrame_trace t s)
  · exact .keep rfl
  · exact .add (.rsp .noData) rfl
  · exact .keep rfl
  · exact .keep rfl
  · exact .keep rfl
  · exact .add (.rsp (frameResponse s)) rfl

/-- Settles O49, operation by operation: a transaction by its frame procedure, a controller operation by its acceptance
or its micro-step, IRQ by its own event. -/
theorem traceGrowsByOneEvent : Obligations.TraceGrowsByOneEvent := by
  intro i s u h
  change TraceGrows s u
  rcases exec_cases i s with ⟨t, -, he⟩ | ⟨r, -, he⟩ | ⟨id, n, d, -, he⟩ | ⟨id, -, he⟩ | ⟨-, he⟩ <;> rw [he] at h
  · exact transact_traceGrows h
  · obtain ⟨-, ⟨-, rfl⟩ | ⟨l, -, hl⟩⟩ := runInit_next h
    · exact .add (.cmd (.init r)) (acceptInit_trace r s)
    · exact initStep_traceGrows hl
  · obtain ⟨-, ⟨-, -, -, rfl⟩ | ⟨l, -, hl⟩⟩ := runSend_next h
    · exact .add (.cmd (.send id (payload n d))) (acceptSend_trace id n d s)
    · exact sendStep_traceGrows hl
  · obtain ⟨-, ⟨-, -, rfl⟩ | ⟨l, -, hl⟩⟩ := runRecv_next h
    · exact .add (.cmd (.recv id)) (acceptRecv_trace id s)
    · exact recvStep_traceGrows hl
  · cases h
    exact .add .irq (takeInterrupt_trace s)

end Sys2Proof.Machine
end

section
/-!
PROOF. What each operation may write, as one equation with the written registers named: every register not named is as it
was. And everything a step can do, once for the operations and once for an invariant of the machine's step.
-/

namespace Sys2Proof.Machine

/-! ### Shared operations -/

/-- F2 to F4 write `RDATA`, `ERRF`, the transport and the trace, and use the environment's answers (40_transport.md R80).
The frame stays open. -/
theorem slotStep_frame (t : Transaction) (k : Nat) (s : State) :
    ∃ x e b tr c d, (x = .slot t (k + 1) ∨ x = .desel t) ∧
      slotStep t k s = { s with xport := x, errf := e, rdata := b, trace := tr, chip := c, draws := d } := by
  rcases slotStep_cases t k s with ⟨o, b, s1, -, hx, h⟩ | ⟨a, b, s1, -, -, hx, h⟩ | ⟨s1, -, hx, h⟩ | ⟨-, h⟩
  · obtain ⟨c, d, rfl⟩ := xfer_frame hx
    exact ⟨_, _, _, _, _, _, .inl rfl, h⟩
  · obtain ⟨c, d, rfl⟩ := xfer_frame hx
    exact ⟨_, _, _, _, _, _, .inl rfl, h⟩
  · obtain ⟨c, d, rfl⟩ := xfer_frame hx
    exact ⟨_, _, _, _, _, _, .inr rfl, h⟩
  · exact ⟨_, _, _, _, _, _, .inr rfl, h⟩

/-- The abort procedure ends the operation with the transport idle, and makes the block Uninitialized if the operation is
INIT (60_exceptions.md R155). -/
theorem raise_frame (e : ErrorKind) (s : State) :
    ∃ tr, raise e s = { s with
      xport := .idle, pc := .idle, phase := if s.op = .init then .uninitialized else s.phase, trace := tr } := by
  have report_frame (u : State) : ∃ tr, report e u = { u with trace := tr } := by
    unfold report
    cases e.reported with
    | none => exact ⟨_, rfl⟩
    | some r => exact ⟨_, rfl⟩
  unfold raise State.op
  cases hp : s.pc with
  | idle => exact ⟨s.trace, by simp [← hp]⟩
  | init l => exact report_frame _
  | send l => exact report_frame _
  | recv l => exact report_frame _

/-- The return to SEND stays in SEND and writes `IDX` only (42_send.md R118). -/
theorem sendReturn_frame {l : SendLabel} {s : State} (hp : s.pc = .send l) :
    ∃ l' i, sendReturn l s = { s with pc := .send l', idx := i } := by
  cases l
  case s0 | s2 | s3 | s11 => exact ⟨_, s.idx, by rw [← hp]; rfl⟩
  all_goals exact ⟨_, _, rfl⟩

/-- The return to RECV stays in RECV and writes `IDX`, `RXLEN` and `RXBUF` only (43_recv_interrupt.md R136). -/
theorem recvReturn_frame {l : RecvLabel} {s u : State} (hp : s.pc = .recv l) (h : recvReturn l s = .next u) :
    ∃ l' i n b, u = { s with pc := .recv l', idx := i, rxlen := n, rxbuf := b } := by
  rcases recvReturn_next h with ⟨-, rfl⟩ | ⟨b, -, -, rfl⟩ | ⟨l', -, rfl⟩ | ⟨-, rfl⟩
  · exact ⟨_, _, _, _, rfl⟩
  · exact ⟨_, _, _, _, rfl⟩
  · exact ⟨_, _, _, _, rfl⟩
  · exact ⟨l, u.idx, u.rxlen, u.rxbuf, by rw [← hp]⟩

/-- F6 leaves `RDATA` and the latches, and leaves `PHASE` outside INIT. -/
theorem finishFrame_frame {s u : State} (h : finishFrame s = .next u) :
    ∃ x p ph tr i n b, (s.op = .init ∨ ph = s.phase) ∧
      u = { s with xport := x, pc := p, phase := ph, trace := tr, idx := i, rxlen := n, rxbuf := b } := by
  rcases finishFrame_next h with ⟨-, rfl⟩ | ⟨-, -, rfl⟩ | ⟨l, -, -, rfl⟩ | ⟨l, -, hp, rfl⟩ | ⟨l, -, hp, hr⟩
  · obtain ⟨tr, h⟩ := raise_frame .transportError s
    refine ⟨_, _, _, _, _, _, _, ?_, h⟩
    by_cases ho : s.op = .init <;> simp [ho]
  · exact ⟨_, _, _, _, _, _, _, .inr rfl, rfl⟩
  · exact ⟨_, _, _, _, _, _, _, .inr rfl, rfl⟩
  · obtain ⟨l', i, h⟩ := sendReturn_frame (s := leaveFrame s) hp
    exact ⟨_, _, _, _, _, _, _, .inr rfl, h⟩
  · obtain ⟨l', i, n, b, rfl⟩ := recvReturn_frame (s := leaveFrame s) hp hr
    exact ⟨_, _, _, _, _, _, _, .inr rfl, rfl⟩

/-! ### The operations -/

/-- A transaction leaves the latches, and leaves `PHASE` outside INIT (40_transport.md R81 to R83). -/
theorem transact_frame {c : Cfg} {t : Transaction} {s u : State} (h : transact c t s = .next u) :
    ∃ cs x e rd ch d p ph tr i n b, (s.op = .init ∨ ph = s.phase) ∧
      u = { s with
        csN := cs, xport := x, errf := e, rdata := rd, chip := ch, draws := d, pc := p, phase := ph, trace := tr,
        idx := i, rxlen := n, rxbuf := b } := by
  rcases transact_next h with ⟨-, -, rfl⟩ | ⟨k, -, rfl⟩ | ⟨-, rfl⟩ | ⟨-, hf⟩
  · exact ⟨_, _, _, _, _, _, _, _, _, _, _, _, .inr rfl, rfl⟩
  · obtain ⟨x, e, b, tr, c, d, -, h⟩ := slotStep_frame t k s
    exact ⟨_, _, _, _, _, _, _, _, _, _, _, _, .inr rfl, h⟩
  · exact ⟨_, _, _, _, _, _, _, _, _, _, _, _, .inr rfl, rfl⟩
  · obtain ⟨x, p, ph, tr, i, n, b, hph, rfl⟩ := finishFrame_frame hf
    exact ⟨_, _, _, _, _, _, _, _, _, _, _, _, hph, rfl⟩

/-- A micro-step of INIT writes `PHASE` and `CNFV` besides opening a frame or moving on (41_initialize.md R104). -/
theorem initStep_frame {c : Cfg} {l : InitLabel} {s u : State} (h : initStep c l s = .next u) :
    ∃ cs x e p ph v tr, u = { s with csN := cs, xport := x, errf := e, pc := p, phase := ph, cnfv := v, trace := tr } := by
  rcases initStep_next h with ⟨t, -, rfl⟩ | ⟨-, rfl⟩ | ⟨v, -, -, rfl⟩ | ⟨-, -, rfl⟩ | ⟨j, -, -, rfl⟩ | ⟨-, -, rfl⟩ |
    ⟨-, rfl⟩
  case inr.inr.inr.inl =>
    obtain ⟨tr, h⟩ := raise_frame .unknownBitRate s
    exact ⟨_, _, _, _, _, _, _, h⟩
  all_goals exact ⟨_, _, _, _, _, _, _, rfl⟩

/-- A micro-step of SEND writes `CNT` besides opening a frame or moving on (42_send.md R118). -/
theorem sendStep_frame {c : Cfg} {l : SendLabel} {s u : State} (h : sendStep c l s = .next u) :
    ∃ cs x e p n tr, u = { s with csN := cs, xport := x, errf := e, pc := p, cnt := n, trace := tr } := by
  rcases sendStep_next h with ⟨t, -, rfl⟩ | ⟨-, rfl⟩ | ⟨-, rfl⟩ | ⟨-, rfl⟩ | ⟨-, -, rfl⟩ | ⟨-, rfl⟩
  all_goals exact ⟨_, _, _, _, _, _, rfl⟩

/-- A micro-step of RECV writes `RXPEND` besides opening a frame or moving on (43_recv_interrupt.md R136). -/
theorem recvStep_frame {c : Cfg} {l : RecvLabel} {s u : State} (h : recvStep c l s = .next u) :
    ∃ cs x e p f tr, u = { s with csN := cs, xport := x, errf := e, pc := p, rxpend := f, trace := tr } := by
  rcases recvStep_next h with ⟨t, -, rfl⟩ | ⟨-, -, rfl⟩ | ⟨-, -, rfl⟩ | ⟨-, rfl⟩ | ⟨-, -, rfl⟩ | ⟨-, -, rfl⟩ | ⟨-, rfl⟩
  all_goals exact ⟨_, _, _, _, _, _, rfl⟩

/-! ### Every operation, every step -/

/-- Everything an operation can do with a next state: a step of a transaction; for INIT, SEND and RECV the acceptance on
an idle block or the next micro-step, with the transport idle; the interrupt. -/
theorem exec_next {i : Instr} {s u : State} (h : exec i s = .next u) :
    (∃ t : Transaction, i = t.instr ∧ transact Config.cfg t s = .next u) ∨
    (∃ r, i = .init r ∧ s.xport = .idle ∧ s.pc = .idle ∧ u = acceptInit r s) ∨
    (∃ r l, i = .init r ∧ s.xport = .idle ∧ s.pc = .init l ∧ initStep Config.cfg l s = .next u) ∨
    (∃ a n d, i = .send a n d ∧ s.xport = .idle ∧ s.pc = .idle ∧ s.phase = .normal ∧ n.toNat ≤ 8 ∧
      u = acceptSend a n d s) ∨
    (∃ a n d l, i = .send a n d ∧ s.xport = .idle ∧ s.pc = .send l ∧ sendStep Config.cfg l s = .next u) ∨
    (∃ a, i = .recv a ∧ s.xport = .idle ∧ s.pc = .idle ∧ s.phase = .normal ∧ u = acceptRecv a s) ∨
    (∃ a l, i = .recv a ∧ s.xport = .idle ∧ s.pc = .recv l ∧ recvStep Config.cfg l s = .next u) ∨
    (i = .irq ∧ u = takeInterrupt s) := by
  rcases exec_cases i s with ⟨t, hi, he⟩ | ⟨r, hi, he⟩ | ⟨a, n, d, hi, he⟩ | ⟨a, hi, he⟩ | ⟨hi, he⟩ <;> rw [he] at h
  · exact .inl ⟨t, hi, h⟩
  · obtain ⟨hx, ⟨hp, hu⟩ | ⟨l, hp, hl⟩⟩ := runInit_next h
    · exact .inr (.inl ⟨r, hi, hx, hp, hu⟩)
    · exact .inr (.inr (.inl ⟨r, l, hi, hx, hp, hl⟩))
  · obtain ⟨hx, ⟨hp, hph, hn, hu⟩ | ⟨l, hp, hl⟩⟩ := runSend_next h
    · exact .inr (.inr (.inr (.inl ⟨a, n, d, hi, hx, hp, hph, hn, hu⟩)))
    · exact .inr (.inr (.inr (.inr (.inl ⟨a, n, d, l, hi, hx, hp, hl⟩))))
  · obtain ⟨hx, ⟨hp, hph, hu⟩ | ⟨l, hp, hl⟩⟩ := runRecv_next h
    · exact .inr (.inr (.inr (.inr (.inr (.inl ⟨a, hi, hx, hp, hph, hu⟩)))))
    · exact .inr (.inr (.inr (.inr (.inr (.inr (.inl ⟨a, l, hi, hx, hp, hl⟩))))))
  · cases h
    exact .inr (.inr (.inr (.inr (.inr (.inr (.inr ⟨hi, rfl⟩))))))

/-- A fetch takes at most a command from the port. -/
theorem fetch_frame {s s1 : State} {i : Instr} (h : fetch s = .run i s1) : ∃ q, s1 = { s with port := q } := by
  rcases fetch_run h with ⟨t, -, -, rfl⟩ | ⟨t, -, -, rfl⟩ | ⟨-, -, -, rfl⟩ | ⟨-, -, -, rfl⟩ | ⟨-, -, -, rfl⟩ |
    ⟨p, ps, -, -, -, -, rfl⟩
  case inr.inr.inr.inr.inr => exact ⟨ps, rfl⟩
  all_goals exact ⟨s1.port, rfl⟩

/-- The induction step of an invariant: a property that holds at reset, does not depend on the environment's lists or the
last pin sample, and is kept by every operation is kept by every step. -/
theorem step_keeps {P : State → Prop} (hreset : P State.reset)
    (henv : ∀ (s : State) l ms q c d, P s → P { s with intPrev := l, moves := ms, port := q, chip := c, draws := d })
    (hexec : ∀ (i : Instr) (s u : State), P s → exec i s = .next u → P u) {s u : State} (hs : P s)
    (h : step s = .next u) : P u := by
  obtain ⟨m, s1, hm, hstep⟩ := step_next h
  obtain ⟨ms, d, rfl⟩ := takeMove_frame hm
  rcases hstep with ⟨-, i, s2, hf, he⟩ | ⟨-, -, rfl⟩ | ⟨-, -, rfl⟩ | ⟨l, -, -, rfl⟩ | ⟨-, rfl⟩
  · obtain ⟨q, rfl⟩ := fetch_frame hf
    exact hexec i _ u (henv s s.intPrev ms q s.chip d hs) he
  · exact henv s s.intPrev ms s.port s.chip d hs
  · exact hexec .irq _ _ (henv s .low ms s.port s.chip d hs) rfl
  · exact henv s l ms s.port s.chip d hs
  · exact henv State.reset State.reset.intPrev ms s.port s.chip d hreset

end Sys2Proof.Machine
end

section
/-!
PROOF. Chip-select gating (spec 10_state.md R38 (a) to (c)) is kept by every step.
-/

namespace Sys2Proof.Machine

/-- Gating reads only chip-select, the program counter, `PHASE` and the transport. -/
theorem Gated.congr {s u : State} (h : Gated s) (hcs : u.csN = s.csN) (hx : u.xport = s.xport) (hp : u.pc = s.pc)
    (hph : u.phase = s.phase) : Gated u := by
  unfold Gated State.tp State.op at *
  rwa [hcs, hx, hp, hph]

/-- With `TP` = T_IDLE chip-select is released. -/
theorem Gated.csN_high {s : State} (h : Gated s) (ht : s.tp = .idle) : s.csN = .high := by
  obtain ⟨hcs, -, -⟩ := h
  cases hc : s.csN with
  | low => exact absurd ht (hcs.mp hc)
  | high => rfl

/-- With `TP` not T_IDLE chip-select is asserted. -/
theorem Gated.csN_low {s : State} (h : Gated s) (ht : s.tp ≠ .idle) : s.csN = .low := h.1.mpr ht

/-- An operation is in progress while a transaction is. -/
theorem Gated.pc_ne_idle {s : State} (h : Gated s) (hx : s.xport ≠ .idle) : s.pc ≠ .idle := fun hp => hx (h.2.1 hp)

/-- Configuring occurs only inside INIT. -/
theorem Gated.op_of_configuring {s : State} (h : Gated s) (hph : s.phase = .configuring) : s.op = .init := h.2.2 hph

/-- What is to show of a state with the transport idle. -/
theorem gated_of_xport_idle {s : State} (hx : s.xport = .idle) (hcs : s.csN = .high)
    (hph : s.phase = .configuring → s.op = .init) : Gated s :=
  ⟨by simp [hcs, State.tp, hx], fun _ => hx, hph⟩

/-- What is to show of a state with a frame open. -/
theorem gated_of_frame_open {s : State} (ht : s.tp ≠ .idle) (hcs : s.csN = .low) (hp : s.pc ≠ .idle)
    (hph : s.phase = .configuring → s.op = .init) : Gated s :=
  ⟨by simp [hcs, ht], fun hi => absurd hi hp, hph⟩

/-- A move that leaves chip-select, ends with the transport idle, and has `PHASE` Configuring only inside INIT keeps
gating. -/
theorem Gated.rest {s u : State} (h : Gated s) (ht : s.tp = .idle) (hcs : u.csN = s.csN) (hx : u.xport = .idle)
    (hph : u.phase = .configuring → u.op = .init) : Gated u :=
  gated_of_xport_idle hx (hcs.trans (h.csN_high ht)) hph

/-- F1 asserts chip-select (40_transport.md R80). -/
theorem openFrame_gated {t : Transaction} {s : State} (h : Gated s) (hp : s.pc ≠ .idle) : Gated (openFrame t s) :=
  gated_of_frame_open (by simp [State.tp]) (openFrame_csN t s) hp h.op_of_configuring

/-- The slots of an open frame leave chip-select asserted, and the frame open. -/
theorem slotStep_gated {t : Transaction} {k : Nat} {s : State} (h : Gated s) (hx : s.xport = .slot t k) :
    Gated (slotStep t k s) := by
  have hcs : s.csN = .low := h.csN_low (by simp [State.tp, hx])
  have hp : s.pc ≠ .idle := h.pc_ne_idle (by simp [hx])
  obtain ⟨x, e, b, tr, c, d, hx' | hx', hu⟩ := slotStep_frame t k s <;> rw [hu]
  · exact gated_of_frame_open (by simp [State.tp, hx']) hcs hp h.op_of_configuring
  · exact gated_of_frame_open (by simp [State.tp, hx']) hcs hp h.op_of_configuring

/-- F5 releases chip-select: `TP` reads T_IDLE, the operation is still in progress (40_transport.md R84). -/
theorem closeFrame_gated {t : Transaction} {s : State} (h : Gated s) (hx : s.xport = .desel t) :
    Gated (closeFrame t s) :=
  ⟨by simp [State.tp], fun hp => absurd hp (h.pc_ne_idle (by simp [hx])), h.op_of_configuring⟩

/-- The abort leaves the block idle and not Configuring (60_exceptions.md R155). -/
theorem raise_gated {e : ErrorKind} {s : State} (h : Gated s) (ht : s.tp = .idle) : Gated (raise e s) := by
  obtain ⟨tr, hu⟩ := raise_frame e s
  rw [hu]
  refine h.rest ht rfl rfl fun hph => ?_
  by_cases ho : s.op = .init
  · simp [ho] at hph
  · exact absurd (h.op_of_configuring (by simpa [ho] using hph)) ho

/-- F6 ends with the transport idle, and stays in the operation unless it aborts it. -/
theorem finishFrame_gated {t : Transaction} {s u : State} (h : Gated s) (hx : s.xport = .closed t)
    (hf : finishFrame s = .next u) : Gated u := by
  have ht : s.tp = .idle := by simp [State.tp, hx]
  rcases finishFrame_next hf with ⟨-, rfl⟩ | ⟨-, hp, rfl⟩ | ⟨l, -, hp, rfl⟩ | ⟨l, -, hp, rfl⟩ | ⟨l, -, hp, hr⟩
  · exact raise_gated h ht
  · exact h.rest ht rfl rfl h.op_of_configuring
  · exact h.rest ht rfl rfl fun _ => rfl
  · obtain ⟨l', i, hu⟩ := sendReturn_frame (s := leaveFrame s) hp
    rw [hu]
    exact h.rest ht rfl rfl fun hph => by simpa [State.op, hp] using h.op_of_configuring hph
  · obtain ⟨l', i, n, b, rfl⟩ := recvReturn_frame (s := leaveFrame s) hp hr
    exact h.rest ht rfl rfl fun hph => by simpa [State.op, hp] using h.op_of_configuring hph

/-- A transaction opens its frame inside an operation only (30_encoding.md R74). -/
theorem transact_gated {c : Cfg} {t : Transaction} {s u : State} (h : Gated s) (hu : transact c t s = .next u) :
    Gated u := by
  rcases transact_next hu with ⟨-, hc, rfl⟩ | ⟨k, hx, rfl⟩ | ⟨hx, rfl⟩ | ⟨hx, hf⟩
  · exact openFrame_gated h fun hp => by simp [currentTransaction_idle hp] at hc
  · exact slotStep_gated h hx
  · exact closeFrame_gated h hx
  · exact finishFrame_gated h hx hf

/-- A micro-step of INIT opens a frame, or moves on with the transport idle; PHASE leaves Configuring before the block is
idle (41_initialize.md R103). -/
theorem initStep_gated {c : Cfg} {l : InitLabel} {s u : State} (h : Gated s) (hx : s.xport = .idle)
    (hp : s.pc = .init l) (hu : initStep c l s = .next u) : Gated u := by
  have ht : s.tp = .idle := by simp [State.tp, hx]
  rcases initStep_next hu with ⟨t, -, rfl⟩ | ⟨-, rfl⟩ | ⟨v, -, -, rfl⟩ | ⟨-, -, rfl⟩ | ⟨j, -, -, rfl⟩ | ⟨-, -, rfl⟩ |
    ⟨-, rfl⟩
  · exact openFrame_gated h (by simp [hp])
  · exact h.rest ht rfl hx fun _ => rfl
  · exact h.rest ht rfl hx fun _ => rfl
  · exact raise_gated h ht
  · exact h.rest ht rfl hx fun _ => rfl
  · exact h.rest ht rfl hx fun _ => rfl
  · exact h.rest ht rfl hx fun hph => by simp at hph

/-- SEND runs outside Configuring and leaves PHASE (42_send.md R118). -/
theorem sendStep_gated {c : Cfg} {l : SendLabel} {s u : State} (h : Gated s) (hx : s.xport = .idle)
    (hp : s.pc = .send l) (hu : sendStep c l s = .next u) : Gated u := by
  have ht : s.tp = .idle := by simp [State.tp, hx]
  have hph : s.phase ≠ .configuring := fun hph => by simpa [State.op, hp] using h.op_of_configuring hph
  rcases sendStep_next hu with ⟨t, -, rfl⟩ | ⟨-, rfl⟩ | ⟨-, rfl⟩ | ⟨-, rfl⟩ | ⟨-, -, rfl⟩ | ⟨-, rfl⟩
  case inl => exact openFrame_gated (h.congr (u := sendPrepared l s) rfl rfl rfl rfl) (by simp [sendPrepared, hp])
  all_goals exact h.rest ht rfl hx (absurd · hph)

/-- RECV runs outside Configuring and leaves PHASE (43_recv_interrupt.md R136). -/
theorem recvStep_gated {c : Cfg} {l : RecvLabel} {s u : State} (h : Gated s) (hx : s.xport = .idle)
    (hp : s.pc = .recv l) (hu : recvStep c l s = .next u) : Gated u := by
  have ht : s.tp = .idle := by simp [State.tp, hx]
  have hph : s.phase ≠ .configuring := fun hph => by simpa [State.op, hp] using h.op_of_configuring hph
  rcases recvStep_next hu with ⟨t, -, rfl⟩ | ⟨-, -, rfl⟩ | ⟨-, -, rfl⟩ | ⟨-, rfl⟩ | ⟨-, -, rfl⟩ | ⟨-, -, rfl⟩ | ⟨-, rfl⟩
  case inl => exact openFrame_gated h (by simp [hp])
  all_goals exact h.rest ht rfl hx (absurd · hph)

/-- Every operation keeps gating; an operation is accepted with the transport idle (60_exceptions.md R159). -/
theorem exec_gated (i : Instr) (s u : State) (h : Gated s) (hu : exec i s = .next u) : Gated u := by
  rcases exec_next hu with ⟨t, -, hu⟩ | ⟨r, -, hx, -, rfl⟩ | ⟨r, l, -, hx, hp, hu⟩ | ⟨a, n, d, -, hx, -, hph, -, rfl⟩ |
    ⟨a, n, d, l, -, hx, hp, hu⟩ | ⟨a, -, hx, -, hph, rfl⟩ | ⟨a, l, -, hx, hp, hu⟩ | ⟨-, rfl⟩
  · exact transact_gated h hu
  · exact h.rest (by simp [State.tp, hx]) rfl hx fun _ => rfl
  · exact initStep_gated h hx hp hu
  · exact h.rest (by simp [State.tp, hx]) rfl hx fun hc => by simp [acceptSend, hph] at hc
  · exact sendStep_gated h hx hp hu
  · exact h.rest (by simp [State.tp, hx]) rfl hx fun hc => by simp [acceptRecv, hph] at hc
  · exact recvStep_gated h hx hp hu
  · exact h.congr rfl rfl rfl rfl

/-- At reset chip-select is released and the block idle (10_state.md R36). -/
theorem reset_gated : Gated State.reset := gated_of_xport_idle rfl rfl fun h => by cases h

/-- Settles O55, operation by operation, from the reset of the block on. -/
theorem gatingKept : Obligations.GatingKept := fun _ _ =>
  step_keeps reset_gated (fun _ _ _ _ _ _ h => h.congr rfl rfl rfl rfl) exec_gated

end Sys2Proof.Machine
end

section
/-!
PROOF. `PHASE` follows the operation (spec 10_state.md R21) at every step.
-/

namespace Sys2Proof.Machine

/-- The `PHASE` in which INIT runs the micro-step at a label: I0 and I1 in Uninitialized (the spec's decision D35), the
rest in Configuring (41_initialize.md R97). -/
def initPhase : InitLabel → Phase
  | .i0 => .uninitialized
  | .i1 => .uninitialized
  | _ => .configuring

/-- Tracking reads only the program counter and `PHASE`. -/
theorem PhaseTracksOperation.congr {s u : State} (h : PhaseTracksOperation s) (hp : u.pc = s.pc)
    (hph : u.phase = s.phase) : PhaseTracksOperation u := by
  unfold PhaseTracksOperation at *
  rwa [hp, hph]

theorem phaseTracks_idle {s : State} (hp : s.pc = .idle) : PhaseTracksOperation s ↔ s.phase ≠ .configuring := by
  simp [PhaseTracksOperation, hp]

theorem phaseTracks_init {s : State} {l : InitLabel} (hp : s.pc = .init l) :
    PhaseTracksOperation s ↔ s.phase = initPhase l := by
  cases l <;> simp [PhaseTracksOperation, hp, initPhase]

theorem phaseTracks_send {s : State} {l : SendLabel} (hp : s.pc = .send l) :
    PhaseTracksOperation s ↔ s.phase = .normal := by
  simp [PhaseTracksOperation, hp]

theorem phaseTracks_recv {s : State} {l : RecvLabel} (hp : s.pc = .recv l) :
    PhaseTracksOperation s ↔ s.phase = .normal := by
  simp [PhaseTracksOperation, hp]

/-- The return from a transaction of INIT stays in the same `PHASE`: RST, at I0, goes on to I1. -/
theorem initPhase_initNext (l : InitLabel) : initPhase (initNext l) = initPhase l := by
  cases l <;> rfl

/-- The abort makes the block Uninitialized if the operation is INIT; SEND and RECV run in Normal (60_exceptions.md
R155). -/
theorem raise_phaseTracks {e : ErrorKind} {s : State} (h : PhaseTracksOperation s) :
    PhaseTracksOperation (raise e s) := by
  obtain ⟨tr, hu⟩ := raise_frame e s
  rw [hu, phaseTracks_idle rfl]
  cases hp : s.pc with
  | idle => simpa [State.op, hp] using (phaseTracks_idle hp).mp h
  | init l => simp [State.op, hp]
  | send l => simp [State.op, hp, (phaseTracks_send hp).mp h]
  | recv l => simp [State.op, hp, (phaseTracks_recv hp).mp h]

/-- F6 aborts the operation, or stays in it and leaves `PHASE`. -/
theorem finishFrame_phaseTracks {s u : State} (h : PhaseTracksOperation s) (hf : finishFrame s = .next u) :
    PhaseTracksOperation u := by
  rcases finishFrame_next hf with ⟨-, rfl⟩ | ⟨-, hp, rfl⟩ | ⟨l, -, hp, rfl⟩ | ⟨l, -, hp, rfl⟩ | ⟨l, -, hp, hr⟩
  · exact raise_phaseTracks h
  · exact h.congr rfl rfl
  · exact (phaseTracks_init rfl).mpr (((phaseTracks_init hp).mp h).trans (initPhase_initNext l).symm)
  · obtain ⟨l', i, hu⟩ := sendReturn_frame (s := leaveFrame s) hp
    rw [hu]
    exact (phaseTracks_send rfl).mpr ((phaseTracks_send hp).mp h)
  · obtain ⟨l', i, n, b, rfl⟩ := recvReturn_frame (s := leaveFrame s) hp hr
    exact (phaseTracks_recv rfl).mpr ((phaseTracks_recv hp).mp h)

/-- F1 to F5 leave the program counter and `PHASE`. -/
theorem transact_phaseTracks {c : Cfg} {t : Transaction} {s u : State} (h : PhaseTracksOperation s)
    (hu : transact c t s = .next u) : PhaseTracksOperation u := by
  rcases transact_next hu with ⟨-, -, rfl⟩ | ⟨k, -, rfl⟩ | ⟨-, rfl⟩ | ⟨-, hf⟩
  · exact h.congr rfl rfl
  · obtain ⟨x, e, b, tr, c, d, -, hu⟩ := slotStep_frame t k s
    rw [hu]
    exact h.congr rfl rfl
  · exact h.congr rfl rfl
  · exact finishFrame_phaseTracks h hf

/-- INIT enters Configuring after the settle delay of I1, and leaves it at I12 or by an abort (41_initialize.md R97,
R103). -/
theorem initStep_phaseTracks {c : Cfg} {l : InitLabel} {s u : State} (h : PhaseTracksOperation s)
    (hp : s.pc = .init l) (hu : initStep c l s = .next u) : PhaseTracksOperation u := by
  have hph : s.phase = initPhase l := (phaseTracks_init hp).mp h
  rcases initStep_next hu with ⟨t, -, rfl⟩ | ⟨-, rfl⟩ | ⟨v, rfl, -, rfl⟩ | ⟨-, -, rfl⟩ | ⟨j, rfl, -, rfl⟩ |
    ⟨rfl, -, rfl⟩ | ⟨-, rfl⟩
  · exact h.congr rfl rfl
  · exact (phaseTracks_init rfl).mpr rfl
  · exact (phaseTracks_init (l := .i3) rfl).mpr hph
  · exact raise_phaseTracks h
  · exact (phaseTracks_init (l := .i7) rfl).mpr hph
  · exact (phaseTracks_init (l := .i12) rfl).mpr hph
  · exact (phaseTracks_idle rfl).mpr (by simp)

/-- SEND leaves `PHASE`, and so ends in Normal (42_send.md R118). -/
theorem sendStep_phaseTracks {c : Cfg} {l : SendLabel} {s u : State} (h : PhaseTracksOperation s)
    (hp : s.pc = .send l) (hu : sendStep c l s = .next u) : PhaseTracksOperation u := by
  have hph : s.phase = .normal := (phaseTracks_send hp).mp h
  rcases sendStep_next hu with ⟨t, -, rfl⟩ | ⟨-, rfl⟩ | ⟨-, rfl⟩ | ⟨-, rfl⟩ | ⟨-, -, rfl⟩ | ⟨-, rfl⟩
  · exact h.congr rfl rfl
  · exact (phaseTracks_send rfl).mpr hph
  · exact (phaseTracks_send rfl).mpr hph
  · exact (phaseTracks_send rfl).mpr hph
  · exact (phaseTracks_send rfl).mpr hph
  · exact (phaseTracks_idle rfl).mpr (by simp [hph])

/-- RECV leaves `PHASE`, and so ends in Normal (43_recv_interrupt.md R136). -/
theorem recvStep_phaseTracks {c : Cfg} {l : RecvLabel} {s u : State} (h : PhaseTracksOperation s)
    (hp : s.pc = .recv l) (hu : recvStep c l s = .next u) : PhaseTracksOperation u := by
  have hph : s.phase = .normal := (phaseTracks_recv hp).mp h
  rcases recvStep_next hu with ⟨t, -, rfl⟩ | ⟨-, -, rfl⟩ | ⟨-, -, rfl⟩ | ⟨-, rfl⟩ | ⟨-, -, rfl⟩ | ⟨-, -, rfl⟩ | ⟨-, rfl⟩
  · exact h.congr rfl rfl
  · exact (phaseTracks_recv rfl).mpr hph
  · exact (phaseTracks_idle rfl).mpr (by simp [hph])
  · exact (phaseTracks_recv rfl).mpr hph
  · exact (phaseTracks_recv rfl).mpr hph
  · exact (phaseTracks_recv rfl).mpr hph
  · exact (phaseTracks_idle rfl).mpr (by simp [hph])

/-- Every operation keeps tracking: INIT is accepted into Uninitialized (R95), SEND and RECV in Normal only
(60_exceptions.md R159). -/
theorem exec_phaseTracks (i : Instr) (s u : State) (h : PhaseTracksOperation s) (hu : exec i s = .next u) :
    PhaseTracksOperation u := by
  rcases exec_next hu with ⟨t, -, hu⟩ | ⟨r, -, -, -, rfl⟩ | ⟨r, l, -, -, hp, hu⟩ | ⟨a, n, d, -, -, -, hph, -, rfl⟩ |
    ⟨a, n, d, l, -, -, hp, hu⟩ | ⟨a, -, -, -, hph, rfl⟩ | ⟨a, l, -, -, hp, hu⟩ | ⟨-, rfl⟩
  · exact transact_phaseTracks h hu
  · exact (phaseTracks_init rfl).mpr rfl
  · exact initStep_phaseTracks h hp hu
  · exact (phaseTracks_send rfl).mpr hph
  · exact sendStep_phaseTracks h hp hu
  · exact (phaseTracks_recv rfl).mpr hph
  · exact recvStep_phaseTracks h hp hu
  · exact h.congr rfl rfl

/-- The block is Uninitialized and idle at reset (10_state.md R36). -/
theorem reset_phaseTracks : PhaseTracksOperation State.reset := (phaseTracks_idle rfl).mpr (by decide)

/-- Settles O56, operation by operation, from the reset of the block on. -/
theorem phaseTrackingKept : Obligations.PhaseTrackingKept := fun _ _ =>
  step_keeps reset_phaseTracks (fun _ _ _ _ _ _ h => h.congr rfl rfl) exec_phaseTracks

end Sys2Proof.Machine
end

section
/-!
PROOF. The bounds of `CNT` and `IDX` (spec 10_state.md R28) are kept by every step.
-/

namespace Sys2Proof.Machine

/-- The bounds read the program counter, the counters and lengths, and whether a transaction is under way. -/
theorem CountersBounded.congr {s u : State} (h : CountersBounded s) (hp : u.pc = s.pc)
    (hx : u.xport = .idle ↔ s.xport = .idle) (hlen : u.len = s.len) (hcnt : u.cnt = s.cnt) (hidx : u.idx = s.idx)
    (hn : u.rxlen = s.rxlen) : CountersBounded u := by
  unfold CountersBounded at *
  simpa only [hp, hx, hlen, hcnt, hidx, hn, ne_eq] using h

/-- An idle block has no bounds to meet. -/
theorem countersBounded_idle {s : State} (hp : s.pc = .idle) : CountersBounded s := by
  simp [CountersBounded, hp]

/-- INIT uses no counter. -/
theorem countersBounded_init {s : State} {l : InitLabel} (hp : s.pc = .init l) : CountersBounded s := by
  simp [CountersBounded, hp]

/-- A latched length of SEND is at most 8. -/
theorem CountersBounded.len_le {s : State} {l : SendLabel} (h : CountersBounded s) (hp : s.pc = .send l) :
    s.len.toNat ≤ 8 := by
  unfold CountersBounded at h
  rw [hp] at h
  exact h.1

/-- A counter below a bound of its width does not wrap when it is incremented. -/
theorem toNat_add_one_of_lt {w : Nat} {x : BitVec w} {n : Nat} (h : x.toNat < n) (hn : n < 2 ^ w) :
    (x + 1).toNat = x.toNat + 1 := by
  have hone : 1 % 2 ^ w = 1 := Nat.mod_eq_of_lt (by omega)
  simp only [BitVec.toNat_add, BitVec.toNat_ofNat, BitVec.ofNat_eq_ofNat, hone]
  exact Nat.mod_eq_of_lt (by omega)

/-- S9 writes a byte only below the length (42_send.md R116). -/
theorem sendTransaction_s9_lt {c : Cfg} {s : State} {t : Transaction} (h : sendTransaction c .s9 s = some t) :
    s.idx.toNat < s.len.toNat := by
  by_contra hi
  simp [sendTransaction, hi] at h

/-- V7 reads a byte only below the length (43_recv_interrupt.md R131). -/
theorem recvTransaction_v7_lt {c : Cfg} {s : State} {t : Transaction} (h : recvTransaction c .v7 s = some t) :
    s.idx.toNat < s.rxlen.toNat := by
  by_contra hi
  simp [recvTransaction, hi] at h

/-- F1 of the transaction of the current micro-step: a data byte is transferred only below the length, and the bound of 50
polls holds with the frame open. -/
theorem openFrame_countersBounded {c : Cfg} {t : Transaction} {s : State} (h : CountersBounded s)
    (ht : currentTransaction c s = some t) : CountersBounded (openFrame t s) := by
  cases hp : s.pc with
  | idle => exact countersBounded_idle hp
  | init l => exact countersBounded_init hp
  | send l =>
    simp only [currentTransaction, hp] at ht
    cases l <;> simp only [CountersBounded, hp, openFrame_pc, openFrame_xport] at h ⊢
    case s1 =>
      obtain ⟨hlen, hcnt, -⟩ := h
      exact ⟨hlen, hcnt, nofun⟩
    case s9 =>
      obtain ⟨hlen, hi, -⟩ := h
      exact ⟨hlen, hi, fun _ => sendTransaction_s9_lt ht⟩
    all_goals exact h
  | recv l =>
    simp only [currentTransaction, hp] at ht
    cases l <;> simp only [CountersBounded, hp, openFrame_pc, openFrame_xport] at h ⊢
    case v7 =>
      obtain ⟨hn, hi, -⟩ := h
      exact ⟨hn, hi, fun _ => recvTransaction_v7_lt ht⟩
    all_goals exact h

/-- The return to SEND: the index starts at 0, and moves on by one below the length (42_send.md R116). -/
theorem sendReturn_countersBounded {l : SendLabel} {s : State} (h : CountersBounded s) (hx : s.xport ≠ .idle)
    (hp : s.pc = .send l) : CountersBounded (sendReturn l (leaveFrame s)) := by
  have hlen : s.len.toNat ≤ 8 := h.len_le hp
  cases l <;> simp only [CountersBounded, hp] at h
  case s8 => exact ⟨hlen, by simp [sendReturn]⟩
  case s9 =>
    obtain ⟨-, -, hi⟩ := h
    have hi : s.idx.toNat < s.len.toNat := hi hx
    have hadd : (s.idx + 1).toNat = s.idx.toNat + 1 := toNat_add_one_of_lt (n := 8) (by omega) (by decide)
    have h8 : (s.idx + 1).toNat ≤ 8 := by omega
    simp only [sendReturn]
    split
    · next hlt => exact ⟨hlen, hlt.le, fun _ => hlt⟩
    · exact ⟨hlen, h8⟩
  all_goals simp [CountersBounded, sendReturn, h, hp]

/-- The return to RECV: the index starts at 0, and moves on by one below the length (43_recv_interrupt.md R131). -/
theorem recvReturn_countersBounded {l : RecvLabel} {s u : State} (h : CountersBounded s) (hp : s.pc = .recv l)
    (hu : recvReturn l (leaveFrame s) = .next u) : CountersBounded u := by
  rcases recvReturn_next hu with ⟨-, rfl⟩ | ⟨b, rfl, -, rfl⟩ | ⟨l', hl, rfl⟩ | ⟨hl, rfl⟩
  · exact rfl
  · simp only [CountersBounded, hp] at h
    obtain ⟨hn, -, -⟩ := h
    split
    · next hlt => exact ⟨hn, hlt.le, fun _ => hlt⟩
    · exact hn
  · cases l <;> simp at hl <;> subst hl
    case v1 | v2 | v3 => trivial
    all_goals simpa [CountersBounded, hp] using h
  · cases l <;> simp at hl
    case v0 | v4 => simp [CountersBounded, hp]
    all_goals simpa [CountersBounded, hp] using h

/-- F6 aborts, or returns to the micro-step whose transaction it was. -/
theorem finishFrame_countersBounded {t : Transaction} {s u : State} (h : CountersBounded s) (hx : s.xport = .closed t)
    (hf : finishFrame s = .next u) : CountersBounded u := by
  have hx : s.xport ≠ .idle := by simp [hx]
  rcases finishFrame_next hf with ⟨-, rfl⟩ | ⟨-, hp, rfl⟩ | ⟨l, -, -, rfl⟩ | ⟨l, -, hp, rfl⟩ | ⟨l, -, hp, hr⟩
  · obtain ⟨tr, hu⟩ := raise_frame .transportError s
    rw [hu]
    exact countersBounded_idle rfl
  · exact countersBounded_idle hp
  · exact countersBounded_init rfl
  · exact sendReturn_countersBounded h hx hp
  · exact recvReturn_countersBounded h hp hr

/-- The slots and F5 keep a transaction under way and write no counter. -/
theorem transact_countersBounded {c : Cfg} {t : Transaction} {s u : State} (h : CountersBounded s)
    (hu : transact c t s = .next u) : CountersBounded u := by
  rcases transact_next hu with ⟨-, ht, rfl⟩ | ⟨k, hx, rfl⟩ | ⟨hx, rfl⟩ | ⟨hx, hf⟩
  · exact openFrame_countersBounded h ht
  · obtain ⟨x, e, b, tr, c, d, hx' | hx', hu⟩ := slotStep_frame t k s <;> rw [hu]
    · exact h.congr rfl (by simp [hx, hx']) rfl rfl rfl rfl
    · exact h.congr rfl (by simp [hx, hx']) rfl rfl rfl rfl
  · exact h.congr rfl (by simp [hx]) rfl rfl rfl rfl
  · exact finishFrame_countersBounded h hx hf

/-- INIT goes on without counters, or ends. -/
theorem initStep_countersBounded {c : Cfg} {l : InitLabel} {s u : State} (hp : s.pc = .init l)
    (hu : initStep c l s = .next u) : CountersBounded u := by
  rcases initStep_next hu with ⟨t, -, rfl⟩ | ⟨-, rfl⟩ | ⟨v, -, -, rfl⟩ | ⟨-, -, rfl⟩ | ⟨j, -, -, rfl⟩ | ⟨-, -, rfl⟩ |
    ⟨-, rfl⟩
  · exact countersBounded_init hp
  · exact countersBounded_init rfl
  · exact countersBounded_init rfl
  · obtain ⟨tr, hu⟩ := raise_frame .unknownBitRate s
    rw [hu]
    exact countersBounded_idle rfl
  · exact countersBounded_init rfl
  · exact countersBounded_init rfl
  · exact countersBounded_idle rfl

/-- SEND polls again only below 50 polls, counts a poll when it opens its frame (42_send.md R111), and leaves the data
loop with the index at most 8. -/
theorem sendStep_countersBounded {c : Cfg} {l : SendLabel} {s u : State} (h : CountersBounded s) (hx : s.xport = .idle)
    (hp : s.pc = .send l) (hu : sendStep c l s = .next u) : CountersBounded u := by
  have hlen : s.len.toNat ≤ 8 := h.len_le hp
  rcases sendStep_next hu with ⟨t, ht, rfl⟩ | ⟨-, rfl⟩ | ⟨rfl, rfl⟩ | ⟨rfl, rfl⟩ | ⟨rfl, -, rfl⟩ | ⟨-, rfl⟩
  · by_cases hl : l = .s1
    · subst hl
      simp only [CountersBounded, hp] at h
      obtain ⟨-, -, hcnt⟩ := h
      have hadd : (s.cnt + 1).toNat = s.cnt.toNat + 1 := toNat_add_one_of_lt (hcnt hx) (by decide)
      simp only [CountersBounded, openFrame_pc, sendPrepared, hp]
      exact ⟨hlen, by simp only [openFrame_cnt, if_true, hadd]; exact hcnt hx, nofun⟩
    · have hs : sendPrepared l s = s := by simp [sendPrepared, hl]
      rw [hs]
      exact openFrame_countersBounded (c := c) h (by simp [currentTransaction, hp, ht])
  · exact ⟨hlen, by simp⟩
  · simp only [CountersBounded, hp] at h
    cases busy c s.rdata
    · exact ⟨hlen, trivial⟩
    · exact h
  · simp only [CountersBounded, hp] at h
    by_cases hcnt : s.cnt.toNat < Config.nPoll
    · rw [if_pos hcnt]
      exact ⟨hlen, hcnt.le, fun _ => hcnt⟩
    · rw [if_neg hcnt]
      exact ⟨hlen, trivial⟩
  · simp only [CountersBounded, hp] at h
    obtain ⟨-, hi, -⟩ := h
    exact ⟨hlen, hi.trans hlen⟩
  · exact countersBounded_idle rfl

/-- RECV enters the data loop with a checked length and the index 0 (43_recv_interrupt.md R140). -/
theorem recvStep_countersBounded {c : Cfg} {l : RecvLabel} {s u : State} (h : CountersBounded s)
    (hx : s.xport = .idle) (hp : s.pc = .recv l) (hu : recvStep c l s = .next u) : CountersBounded u := by
  rcases recvStep_next hu with ⟨t, ht, rfl⟩ | ⟨-, -, rfl⟩ | ⟨-, -, rfl⟩ | ⟨-, rfl⟩ | ⟨rfl, hn, rfl⟩ | ⟨rfl, -, rfl⟩ |
    ⟨-, rfl⟩
  · exact openFrame_countersBounded (c := c) h (by simp [currentTransaction, hp, ht])
  · exact trivial
  · exact countersBounded_idle rfl
  · cases rxFull s.rdata
    · exact trivial
    · exact trivial
  · simp only [CountersBounded, hp] at h
    exact ⟨hn, by simp [h], fun hx' => absurd hx hx'⟩
  · simp only [CountersBounded, hp] at h
    exact h.1
  · exact countersBounded_idle rfl

/-- Every operation keeps the bounds; SEND is accepted with a length of at most 8 (60_exceptions.md R159). -/
theorem exec_countersBounded (i : Instr) (s u : State) (h : CountersBounded s) (hu : exec i s = .next u) :
    CountersBounded u := by
  rcases exec_next hu with ⟨t, -, hu⟩ | ⟨r, -, -, -, rfl⟩ | ⟨r, l, -, -, hp, hu⟩ | ⟨a, n, d, -, -, -, -, hn, rfl⟩ |
    ⟨a, n, d, l, -, hx, hp, hu⟩ | ⟨a, -, -, -, -, rfl⟩ | ⟨a, l, -, hx, hp, hu⟩ | ⟨-, rfl⟩
  · exact transact_countersBounded h hu
  · exact countersBounded_init rfl
  · exact initStep_countersBounded hp hu
  · exact ⟨hn, trivial⟩
  · exact sendStep_countersBounded h hx hp hu
  · exact trivial
  · exact recvStep_countersBounded h hx hp hu
  · exact h.congr rfl Iff.rfl rfl rfl rfl rfl

/-- Settles O57, operation by operation, from the reset of the block on. -/
theorem counterBoundsKept : Obligations.CounterBoundsKept := fun _ _ =>
  step_keeps (countersBounded_idle rfl) (fun _ _ _ _ _ _ h => h.congr rfl Iff.rfl rfl rfl rfl rfl)
    exec_countersBounded

end Sys2Proof.Machine
end

section
/-!
PROOF. Who writes which register (spec 10_state.md R21, R26, R27), read off what each operation may write.
-/

namespace Sys2Proof.Machine

/-- Settles O50: SEND, RECV and IRQ do not write `PHASE`, and a transaction writes it only where it aborts INIT. -/
theorem phaseWrittenByInitOnly : Obligations.PhaseWrittenByInitOnly := by
  intro i s u h hne
  rcases exec_next h with ⟨t, -, hu⟩ | ⟨r, hi, -⟩ | ⟨r, l, hi, -⟩ | ⟨a, n, d, -, -, -, -, -, rfl⟩ |
    ⟨a, n, d, l, -, -, -, hu⟩ | ⟨a, -, -, -, -, rfl⟩ | ⟨a, l, -, -, -, hu⟩ | ⟨-, rfl⟩
  · obtain ⟨_, _, _, _, _, _, _, ph, _, _, _, _, ho | hph, rfl⟩ := transact_frame hu
    · exact .inr ho
    · exact absurd hph hne
  · exact .inl ⟨r, hi⟩
  · exact .inl ⟨r, hi⟩
  · exact absurd rfl hne
  · obtain ⟨_, _, _, _, _, _, rfl⟩ := sendStep_frame hu
    exact absurd rfl hne
  · exact absurd rfl hne
  · obtain ⟨_, _, _, _, _, _, rfl⟩ := recvStep_frame hu
    exact absurd rfl hne
  · exact absurd rfl hne

/-- A transaction writes `RDATA` only as a read in its third slot, with the byte the bus returned there (40_transport.md
R82). -/
theorem transact_rdata {c : Cfg} {t : Transaction} {s u : State} (h : transact c t s = .next u) :
    u.rdata = s.rdata ∨
      ∃ a, t = .rd a ∧ s.xport = .slot (.rd a) 2 ∧ u.trace = .rx u.rdata :: s.trace ∧ (xfer s).1 = .ok u.rdata := by
  rcases transact_next h with ⟨-, -, rfl⟩ | ⟨k, hx, rfl⟩ | ⟨-, rfl⟩ | ⟨-, hf⟩
  · exact .inl rfl
  · rcases slotStep_cases t k s with ⟨o, b, s1, -, hr, hu⟩ | ⟨a, b, s1, rfl, rfl, hr, hu⟩ | ⟨s1, -, hr, hu⟩ | ⟨-, hu⟩
    · obtain ⟨_, _, rfl⟩ := xfer_frame hr
      exact .inl (by rw [hu]; rfl)
    · obtain ⟨_, _, rfl⟩ := xfer_frame hr
      rw [hu]
      exact .inr ⟨a, rfl, hx, rfl, by rw [hr]; rfl⟩
    · obtain ⟨_, _, rfl⟩ := xfer_frame hr
      exact .inl (by rw [hu]; rfl)
    · exact .inl (by rw [hu])
  · exact .inl rfl
  · obtain ⟨_, _, _, _, _, _, _, -, rfl⟩ := finishFrame_frame hf
    exact .inl rfl

/-- Settles O51: no controller operation writes `RDATA`, and a transaction only in the third slot of RD. -/
theorem rdataWrittenByReadOnly : Obligations.RdataWrittenByReadOnly := by
  intro i s u h hne
  rcases exec_next h with ⟨t, rfl, hu⟩ | ⟨r, -, -, -, rfl⟩ | ⟨r, l, -, -, -, hu⟩ | ⟨a, n, d, -, -, -, -, -, rfl⟩ |
    ⟨a, n, d, l, -, -, -, hu⟩ | ⟨a, -, -, -, -, rfl⟩ | ⟨a, l, -, -, -, hu⟩ | ⟨-, rfl⟩
  · rcases transact_rdata hu with hkeep | ⟨a, rfl, hread⟩
    · exact absurd hkeep hne
    · exact ⟨a, rfl, hread⟩
  · exact absurd rfl hne
  · obtain ⟨_, _, _, _, _, _, _, rfl⟩ := initStep_frame hu
    exact absurd rfl hne
  · exact absurd rfl hne
  · obtain ⟨_, _, _, _, _, _, rfl⟩ := sendStep_frame hu
    exact absurd rfl hne
  · exact absurd rfl hne
  · obtain ⟨_, _, _, _, _, _, rfl⟩ := recvStep_frame hu
    exact absurd rfl hne
  · exact absurd rfl hne

/-- Settles O52: only an acceptance writes a latch, and a busy block accepts nothing. -/
theorem latchesHold : Obligations.LatchesHold := by
  intro i s u h hbusy
  rcases exec_next h with ⟨t, -, hu⟩ | ⟨r, -, -, hp, -⟩ | ⟨r, l, -, -, -, hu⟩ | ⟨a, n, d, -, -, hp, -⟩ |
    ⟨a, n, d, l, -, -, -, hu⟩ | ⟨a, -, -, hp, -⟩ | ⟨a, l, -, -, -, hu⟩ | ⟨-, rfl⟩
  · obtain ⟨_, _, _, _, _, _, _, _, _, _, _, _, -, rfl⟩ := transact_frame hu
    exact ⟨rfl, rfl, rfl, rfl⟩
  · exact absurd hp hbusy
  · obtain ⟨_, _, _, _, _, _, _, rfl⟩ := initStep_frame hu
    exact ⟨rfl, rfl, rfl, rfl⟩
  · exact absurd hp hbusy
  · obtain ⟨_, _, _, _, _, _, rfl⟩ := sendStep_frame hu
    exact ⟨rfl, rfl, rfl, rfl⟩
  · exact absurd hp hbusy
  · obtain ⟨_, _, _, _, _, _, rfl⟩ := recvStep_frame hu
    exact ⟨rfl, rfl, rfl, rfl⟩
  · exact ⟨rfl, rfl, rfl, rfl⟩

end Sys2Proof.Machine
end

section
/-!
PROOF. Nothing but RECV's micro-step V0 reads `RXPEND`, and nothing but V0 and IRQ writes it (spec 10_state.md R22,
20_memory.md R53): every other operation commutes with setting the flag. One lemma per shared operation, then one
operation at a time.
-/

namespace Sys2Proof.Machine

/-- `s` with `RXPEND` holding `b`. -/
def withPending (b : Bool) (s : State) : State := { s with rxpend := b }

@[simp] theorem withPending_phase (b : Bool) (s : State) : (withPending b s).phase = s.phase := rfl
@[simp] theorem withPending_pc (b : Bool) (s : State) : (withPending b s).pc = s.pc := rfl
@[simp] theorem withPending_xport (b : Bool) (s : State) : (withPending b s).xport = s.xport := rfl
@[simp] theorem withPending_errf (b : Bool) (s : State) : (withPending b s).errf = s.errf := rfl
@[simp] theorem withPending_rdata (b : Bool) (s : State) : (withPending b s).rdata = s.rdata := rfl
@[simp] theorem withPending_rate (b : Bool) (s : State) : (withPending b s).rate = s.rate := rfl
@[simp] theorem withPending_len (b : Bool) (s : State) : (withPending b s).len = s.len := rfl
@[simp] theorem withPending_txbuf (b : Bool) (s : State) : (withPending b s).txbuf = s.txbuf := rfl
@[simp] theorem withPending_idx (b : Bool) (s : State) : (withPending b s).idx = s.idx := rfl
@[simp] theorem withPending_rxlen (b : Bool) (s : State) : (withPending b s).rxlen = s.rxlen := rfl
@[simp] theorem withPending_rxbuf (b : Bool) (s : State) : (withPending b s).rxbuf = s.rxbuf := rfl
@[simp] theorem withPending_chip (b : Bool) (s : State) : (withPending b s).chip = s.chip := rfl

/-! ### Shared operations -/

/-- A guarded micro-step commutes with setting the flag if the micro-step does. -/
theorem whenTransportIdle_withPending {b : Bool} {s : State} {k k' : Host.Outcome State Fault Refusal}
    (h : k' = mapNext (withPending b) k) :
    whenTransportIdle (withPending b s) k' = mapNext (withPending b) (whenTransportIdle s k) := by
  unfold whenTransportIdle
  rw [withPending_xport, h]
  cases s.xport <;> rfl

theorem xfer_withPending (b : Bool) (s : State) :
    xfer (withPending b s) = ((xfer s).1, withPending b (xfer s).2) := by
  unfold xfer
  rw [withPending_chip]
  cases s.chip <;> rfl

theorem transmitSlot_withPending (t : Transaction) (k : Nat) (o : Byte) (b : Bool) (s : State) :
    transmitSlot t k o (withPending b s) = withPending b (transmitSlot t k o s) := by
  unfold transmitSlot
  rw [xfer_withPending]
  rcases xfer s with ⟨_ | _, s1⟩ <;> rfl

theorem receiveSlot_withPending (t : Transaction) (k : Nat) (b : Bool) (s : State) :
    receiveSlot t k (withPending b s) = withPending b (receiveSlot t k s) := by
  unfold receiveSlot
  rw [xfer_withPending]
  rcases xfer s with ⟨_ | _, s1⟩ <;> rfl

theorem slotStep_withPending (t : Transaction) (k : Nat) (b : Bool) (s : State) :
    slotStep t k (withPending b s) = withPending b (slotStep t k s) := by
  unfold slotStep
  cases t.out[k]? with
  | some o => exact transmitSlot_withPending t k o b s
  | none =>
    by_cases hk : k < t.slots
    · simp only [if_pos hk, receiveSlot_withPending]
    · simp only [if_neg hk]
      rfl

theorem raise_withPending (e : ErrorKind) (b : Bool) (s : State) :
    raise e (withPending b s) = withPending b (raise e s) := by
  unfold raise report
  rw [withPending_pc]
  cases s.pc <;> cases e.reported <;> rfl

/-! ### The return from a transaction -/

theorem sendReturn_withPending (l : SendLabel) (b : Bool) (s : State) :
    sendReturn l (withPending b s) = withPending b (sendReturn l s) := by
  cases l <;> rfl

theorem recvReturn_withPending (l : RecvLabel) (b : Bool) (s : State) :
    recvReturn l (withPending b s) = mapNext (withPending b) (recvReturn l s) := by
  cases l
  case v7 =>
    simp only [recvReturn, withPending_rxbuf, withPending_idx, withPending_rdata]
    cases bufSet s.rxbuf s.idx.toNat s.rdata <;> rfl
  all_goals rfl

theorem finishFrame_withPending (b : Bool) (s : State) :
    finishFrame (withPending b s) = mapNext (withPending b) (finishFrame s) := by
  unfold finishFrame resume
  rw [withPending_errf, leaveFrame_pc, leaveFrame_pc, withPending_pc]
  cases s.errf with
  | true => exact congrArg Host.Outcome.next (raise_withPending .transportError b s)
  | false =>
    cases s.pc with
    | idle => rfl
    | init l => rfl
    | send l => exact congrArg Host.Outcome.next (sendReturn_withPending l b (leaveFrame s))
    | recv l => exact recvReturn_withPending l b (leaveFrame s)

/-! ### The operations -/

/-- The transaction of a micro-step does not depend on the flag. -/
theorem currentTransaction_withPending (c : Cfg) (b : Bool) (s : State) :
    currentTransaction c (withPending b s) = currentTransaction c s := by
  unfold currentTransaction
  rw [withPending_pc]
  cases s.pc with
  | idle => rfl
  | init l => cases l <;> rfl
  | send l => cases l <;> rfl
  | recv l => cases l <;> rfl

theorem transact_withPending (c : Cfg) (t : Transaction) (b : Bool) (s : State) :
    transact c t (withPending b s) = mapNext (withPending b) (transact c t s) := by
  unfold transact
  rw [withPending_xport]
  cases s.xport with
  | idle =>
    simp only [startInside, currentTransaction_withPending]
    split <;> rfl
  | slot t' k =>
    simp only [slotStep_withPending]
    split <;> rfl
  | desel t' => simp only; split <;> rfl
  | closed t' =>
    simp only [finishFrame_withPending]
    split <;> rfl

theorem initStep_withPending (c : Cfg) (l : InitLabel) (b : Bool) (s : State) :
    initStep c l (withPending b s) = mapNext (withPending b) (initStep c l s) := by
  cases l
  case i2 =>
    simp only [initStep, withPending_rate, raise_withPending]
    cases c.lookup s.rate <;> rfl
  case i6 j =>
    simp only [initStep]
    cases c.openF.initSetup[j]? <;> rfl
  case i11 =>
    simp only [initStep]
    rw [withPending_rdata]
    cases inNormalMode c s.rdata <;> rfl
  all_goals rfl

theorem sendStep_withPending (c : Cfg) (l : SendLabel) (b : Bool) (s : State) :
    sendStep c l (withPending b s) = mapNext (withPending b) (sendStep c l s) := by
  cases l
  case s2 =>
    simp only [sendStep]
    rw [withPending_rdata]
    cases busy c s.rdata <;> rfl
  case s9 =>
    simp only [sendStep]
    rw [withPending_idx, withPending_len, withPending_txbuf]
    split
    · cases bufGet s.txbuf s.idx.toNat <;> rfl
    · rfl
  all_goals rfl

/-- Every micro-step of RECV but V0. -/
theorem recvStep_withPending (c : Cfg) {l : RecvLabel} (hl : l ≠ .v0) (b : Bool) (s : State) :
    recvStep c l (withPending b s) = mapNext (withPending b) (recvStep c l s) := by
  cases l
  case v0 => exact absurd rfl hl
  case v4 =>
    simp only [recvStep]
    rw [withPending_rdata]
    cases rxFull s.rdata <;> rfl
  case v6 =>
    simp only [recvStep]
    rw [withPending_rxlen]
    split <;> rfl
  case v7 =>
    simp only [recvStep]
    rw [withPending_idx, withPending_rxlen]
    split
    · split <;> rfl
    · rfl
  all_goals rfl

theorem runInit_withPending (c : Cfg) (r : RateName) (b : Bool) (s : State) :
    runInit c r (withPending b s) = mapNext (withPending b) (runInit c r s) := by
  unfold runInit
  rw [withPending_pc]
  cases s.pc with
  | idle => exact whenTransportIdle_withPending rfl
  | init l => exact whenTransportIdle_withPending (initStep_withPending c l b s)
  | send l => rfl
  | recv l => rfl

theorem admitSend_withPending (a : BitVec 11) (n : BitVec 4) (d : Buf) (b : Bool) (s : State) :
    admitSend a n d (withPending b s) = mapNext (withPending b) (admitSend a n d s) := by
  unfold admitSend
  rw [withPending_phase]
  cases s.phase with
  | uninitialized => rfl
  | configuring => rfl
  | normal => simp only; split <;> rfl

theorem runSend_withPending (c : Cfg) (a : BitVec 11) (n : BitVec 4) (d : Buf) (b : Bool) (s : State) :
    runSend c a n d (withPending b s) = mapNext (withPending b) (runSend c a n d s) := by
  unfold runSend
  rw [withPending_pc]
  cases s.pc with
  | idle => exact whenTransportIdle_withPending (admitSend_withPending a n d b s)
  | init l => rfl
  | send l => exact whenTransportIdle_withPending (sendStep_withPending c l b s)
  | recv l => rfl

theorem admitRecv_withPending (a : BitVec 11) (b : Bool) (s : State) :
    admitRecv a (withPending b s) = mapNext (withPending b) (admitRecv a s) := by
  unfold admitRecv
  rw [withPending_phase]
  cases s.phase <;> rfl

theorem runRecv_withPending (c : Cfg) (a : BitVec 11) (b : Bool) {s : State} (hv0 : s.pc ≠ .recv .v0) :
    runRecv c a (withPending b s) = mapNext (withPending b) (runRecv c a s) := by
  unfold runRecv
  rw [withPending_pc]
  cases hp : s.pc with
  | idle => exact whenTransportIdle_withPending (admitRecv_withPending a b s)
  | init l => rfl
  | send l => rfl
  | recv l =>
    have hl : l ≠ .v0 := fun h => hv0 (by rw [hp, h])
    exact whenTransportIdle_withPending (recvStep_withPending c hl b s)

/-- Settles O45, operation by operation. -/
theorem pendingFlagReadOnlyAtV0 : Obligations.PendingFlagReadOnlyAtV0 := by
  intro i s b hirq hv0
  change exec i (withPending b s) = mapNext (withPending b) (exec i s)
  cases i with
  | rst => exact transact_withPending Config.cfg .rst b s
  | rd a => exact transact_withPending Config.cfg (.rd a) b s
  | wr a v => exact transact_withPending Config.cfg (.wr a v) b s
  | init r => exact runInit_withPending Config.cfg r b s
  | send a n d => exact runSend_withPending Config.cfg a n d b s
  | recv a => exact runRecv_withPending Config.cfg a b fun hp => hv0 ⟨⟨a, rfl⟩, hp⟩
  | irq => exact absurd rfl hirq

end Sys2Proof.Machine
end

section
/-!
PROOF. What a step of the normal context runs (spec 10_state.md R24, R25, 60_exceptions.md R158, R159), and where a word
of the opcode table is placed for it.
-/

namespace Sys2Proof.Machine

/-! ### Fetching -/

/-- With the normal context to move, a step runs the operation it fetches. -/
theorem step_of_fetch {s s1 : State} {ms : List Move} {i : Instr} (hm : s.moves = .run :: ms)
    (hf : fetch { s with moves := ms } = .run i s1) : step s = exec i s1 := by
  rw [step_run hm]
  simp [runStep, hf]

/-- An idle block fetches the next command of the port, decoded. -/
theorem fetch_command {s : State} {p : CmdPort} {ps : List CmdPort} (hx : s.xport = .idle) (hp : s.pc = .idle)
    (hq : s.port = p :: ps) : fetch s = fetchEncoded (.command p) { s with port := ps } := by
  simp [fetch, fetchCommand, hx, hp, hq]

/-- An idle block with no command presented waits. -/
theorem fetch_wait {s : State} (hx : s.xport = .idle) (hp : s.pc = .idle) (hq : s.port = []) : fetch s = .wait := by
  simp [fetch, fetchCommand, hx, hp, hq]

/-- An operation is fetched from the encoding that decodes to it. -/
theorem fetchEncoded_ok {e : Encoded} {i : Instr} (s : State) (h : decode e = .ok i) :
    fetchEncoded e s = .run i s := by
  simp [fetchEncoded, h]

/-- Command code 0b11 is reserved (30_encoding.md R72). -/
theorem decode_reserved {p : CmdPort} (h : p.op = 0b11) : decode (.command p) = .error .reservedCommand := by
  simp [decode, decodeCommand, h]

/-- The open transaction is in a slot, at T_DESEL, or closed and not yet returned from. -/
theorem xport_of_openTransaction {s : State} {t : Transaction} (h : s.openTransaction = some t) :
    (∃ k, s.xport = .slot t k) ∨ s.xport = .desel t ∨ s.xport = .closed t := by
  unfold State.openTransaction at h
  cases hx : s.xport <;> rw [hx] at h <;> cases h
  · exact .inl ⟨_, rfl⟩
  · exact .inr (.inl rfl)
  · exact .inr (.inr rfl)

/-! ### Words of the opcode table -/

@[simp] theorem transactionOf_instr (t : Transaction) : transactionOf t.instr = some t := by
  cases t <;> rfl

/-- An operation that is no transaction's has no transaction. -/
theorem transactionOf_eq_none {i : Instr} (h : ∀ t : Transaction, i ≠ t.instr) : transactionOf i = none := by
  cases i with
  | rst => exact absurd rfl (h .rst)
  | rd a => exact absurd rfl (h (.rd a))
  | wr a v => exact absurd rfl (h (.wr a v))
  | init r => rfl
  | send a n d => rfl
  | recv a => rfl
  | irq => rfl

/-- A frame selects a transaction (30_encoding.md R60). -/
theorem decodeFrame_transaction {w : List Byte} {i : Instr} (h : decodeFrame w = .ok i) :
    ∃ t : Transaction, i = t.instr := by
  unfold decodeFrame at h
  split at h
  · cases h
  · split at h
    · split at h <;> cases h
      exact ⟨.rst, rfl⟩
    · split at h
      · split at h <;> cases h
        exact ⟨.rd _, rfl⟩
      · split at h
        · split at h <;> cases h
          exact ⟨.wr _ _, rfl⟩
        · cases h

/-- A word of the opcode table is a frame or a command. -/
theorem tableEncoding_cases {nbits w : Nat} {e : Encoded} (h : tableEncoding nbits w = some e) :
    (∃ l, e = .frame l) ∨ ∃ p, e = .command p := by
  unfold tableEncoding at h
  split at h
  · split at h <;> cases h
    exact .inl ⟨_, rfl⟩
  · split at h
    · split at h
      · cases h
        exact .inl ⟨_, rfl⟩
      · split at h <;> cases h
        exact .inr ⟨_, rfl⟩
    · cases h

/-- A word that has an operation is laid out as an encoding of it. -/
theorem decodeTableWord_eq_some {nbits w : Nat} {i : Instr} (h : decodeTableWord nbits w = some i) :
    ∃ e, tableEncoding nbits w = some e ∧ decode e = .ok i := by
  unfold decodeTableWord at h
  cases he : tableEncoding nbits w with
  | none => rw [he] at h; cases h
  | some e =>
    rw [he] at h
    cases hd : decode e with
    | error d => simp [hd] at h
    | ok j =>
      simp only [hd, Option.some.injEq] at h
      exact ⟨e, rfl, h ▸ hd⟩

/-- The word of a transaction is placed as its open frame (assumption 8). -/
theorem withFetchWord_transaction {nbits w : Nat} {t : Transaction} (s : State)
    (h : decodeTableWord nbits w = some t.instr) : s.withFetchWord nbits w = placeTransaction t s := by
  obtain ⟨e, he, hd⟩ := decodeTableWord_eq_some h
  simp [State.withFetchWord, placeWord, he, hd]

/-- The word of any other operation is placed as the next command of an idle block, with the normal context to move
(assumption 8). -/
theorem withFetchWord_command {nbits w : Nat} {i : Instr} (s : State) (h : decodeTableWord nbits w = some i)
    (hi : ∀ t : Transaction, i ≠ t.instr) :
    ∃ p, decode (.command p) = .ok i ∧
      s.withFetchWord nbits w =
        { s with moves := .run :: s.moves, pc := .idle, xport := .idle, port := p :: s.port } := by
  obtain ⟨e, he, hd⟩ := decodeTableWord_eq_some h
  rcases tableEncoding_cases he with ⟨l, rfl⟩ | ⟨p, rfl⟩
  · obtain ⟨t, rfl⟩ := decodeFrame_transaction hd
    exact absurd rfl (hi t)
  · exact ⟨p, hd, by simp [State.withFetchWord, placeWord, he, hd, transactionOf_eq_none hi]⟩

/-- A step on an idle block with a command presented runs the operation it decodes to. -/
theorem step_command {s : State} {ms : List Move} {p : CmdPort} {ps : List CmdPort} {i : Instr}
    (hm : s.moves = .run :: ms) (hx : s.xport = .idle) (hp : s.pc = .idle) (hq : s.port = p :: ps)
    (hd : decode (.command p) = .ok i) : step s = exec i { s with moves := ms, port := ps } :=
  step_of_fetch hm
    ((fetch_command (s := { s with moves := ms }) hx hp hq).trans (fetchEncoded_ok { s with moves := ms, port := ps } hd))

/-- Settles O47, by what the block fetches: a command, nothing, a placed word, the open transaction, or the operation in
progress from its latches. -/
theorem stepRunsWhatItFetches : Obligations.StepRunsWhatItFetches := by
  refine ⟨fun s ms p ps i hd => ?_, fun s ms p ps hop => ?_, fun s ms => ?_, fun s nbits w t h => ?_,
    fun s nbits w i h hi => ?_, fun s ms t ht => ?_, fun s ms l => ?_, fun s ms l => ?_, fun s ms l => ?_⟩
  · exact step_command rfl rfl rfl rfl hd
  · rw [step_run rfl, runStep, fetch_command rfl rfl rfl]
    simp [fetchEncoded, decode_reserved hop]
  · rw [step_run rfl, runStep, fetch_wait rfl rfl rfl]
  · rw [withFetchWord_transaction s h, exec_instr]
    exact step_open rfl (.inl ⟨0, rfl⟩)
  · obtain ⟨p, hd, hplaced⟩ := withFetchWord_command s h hi
    rw [hplaced]
    exact step_command rfl rfl rfl rfl hd
  · rw [exec_instr]
    exact step_open rfl (xport_of_openTransaction ht)
  · exact step_of_fetch rfl rfl
  · exact step_of_fetch rfl rfl
  · exact step_of_fetch rfl rfl

end Sys2Proof.Machine
end

section
/-!
PROOF. The reset state (spec 10_state.md R36, 70_reset_and_hazards.md R170).
-/

namespace Sys2Proof.Machine

/-- No event has happened at reset, so the trace is legal. -/
theorem reset_traceLegal : TraceLegal State.reset := ⟨false, rfl⟩

/-- Nothing has been put on the bus at reset, and no frame is open. -/
theorem reset_addressesClosed : AddressesClosed State.reset :=
  ⟨by simp [State.reset, withoutIrq, busAddresses], nofun⟩

/-- Settles O54, invariant by invariant. -/
theorem invariantsHoldAtReset : Obligations.InvariantsHoldAtReset :=
  ⟨reset_gated, reset_phaseTracks, countersBounded_idle rfl, reset_traceLegal, reset_addressesClosed⟩

/-- Settles O53: the values are those of `State.reset`, and a step with a reset to come is the reset of the block. -/
theorem resetValues : Obligations.ResetValues :=
  ⟨⟨rfl, rfl, rfl, rfl, rfl, rfl, rfl, rfl⟩, fun _ _ => step_reset rfl⟩

end Sys2Proof.Machine
end

section
/-!
PROOF. No address outside the register table is put on the bus (spec 20_memory.md R55). The addresses are those of the
transactions the micro-steps open; a legal trace tells which sent byte is an address.
-/

namespace Sys2Proof.Machine

/-! ### The address of a transaction -/

/-- The address of `t`, if it has one, is in the register table (10_state.md R33). -/
def Transaction.InTable (c : Cfg) (t : Transaction) : Prop := ∀ a, t.address = some a → a ∈ c.addresses

@[simp] theorem inTable_rst (c : Cfg) : Transaction.InTable c .rst := nofun

@[simp] theorem inTable_rd (c : Cfg) (a : Addr) : Transaction.InTable c (.rd a) ↔ a ∈ c.addresses := by
  simp [Transaction.InTable, Transaction.address]

@[simp] theorem inTable_wr (c : Cfg) (a : Addr) (v : Byte) :
    Transaction.InTable c (.wr a v) ↔ a ∈ c.addresses := by
  simp [Transaction.InTable, Transaction.address]

/-- A payload index below 8 names one of the eight data registers of its mailbox (30_encoding.md R67). -/
theorem dataAddr_mem (base : Addr) {i : BitVec 4} (hi : i.toNat < 8) : dataAddr base i ∈ dataAddrs base :=
  List.mem_map.mpr ⟨i.toNat, List.mem_range.mpr hi, by simp [dataAddr, BitVec.ofNat_toNat]⟩

/-- W6 keeps the OPEN setup writes inside the mailbox, filter and mask registers, all of them in the table. -/
theorem setup_mem_addresses {w : Addr × Byte} (h : w ∈ Config.cfg.openF.initSetup) : w.1 ∈ Config.cfg.addresses := by
  have hsub : Config.sets.sTx ++ Config.sets.sRx ++ Config.sets.sFm ⊆ (Config.cfgDef Config.openT).addresses := by
    decide
  exact hsub (Config.setup_address h)

/-- INIT accesses the table only (41_initialize.md R104). -/
theorem initTransaction_inTable {l : InitLabel} {s : State} {t : Transaction}
    (h : initTransaction Config.cfg l s = some t) : t.InTable Config.cfg := by
  cases l <;> simp only [initTransaction] at h
  case i6 j =>
    obtain ⟨w, hw, rfl⟩ := Option.map_eq_some_iff.mp h
    exact (inTable_wr _ _ _).mpr (setup_mem_addresses (List.mem_of_getElem? hw))
  case i11 =>
    split at h <;> cases h
    simp [Cfg.addresses]
  all_goals cases h <;> simp [Cfg.addresses]

/-- SEND accesses the table only; S9 has a byte to write only below index 8 (42_send.md R118). -/
theorem sendTransaction_inTable {c : Cfg} {l : SendLabel} {s : State} {t : Transaction}
    (h : sendTransaction c l s = some t) : t.InTable c := by
  cases l <;> simp only [sendTransaction] at h
  case s9 =>
    split at h
    · obtain ⟨b, hb, rfl⟩ := Option.map_eq_some_iff.mp h
      have hi : s.idx.toNat < 8 := by simpa [hb] using bufGet_isSome s.txbuf s.idx.toNat
      simp [Cfg.addresses, dataAddr_mem c.aTxd0 hi]
    · cases h
  all_goals cases h <;> simp [Cfg.addresses, Cfg.txNamed]

/-- RECV accesses the table only; V7 reads a byte only below index 8 (43_recv_interrupt.md R136). -/
theorem recvTransaction_inTable {c : Cfg} {l : RecvLabel} {s : State} {t : Transaction}
    (h : recvTransaction c l s = some t) : t.InTable c := by
  cases l <;> simp only [recvTransaction] at h
  case v7 =>
    split at h
    · next hi =>
      cases h
      simp [Cfg.addresses, dataAddr_mem c.aRxd0 hi.2]
    · cases h
  all_goals cases h <;> simp [Cfg.addresses, Cfg.rxNamed]

/-- Every transaction a micro-step opens is at an address of the table. -/
theorem currentTransaction_inTable {s : State} {t : Transaction} (h : currentTransaction Config.cfg s = some t) :
    t.InTable Config.cfg := by
  unfold currentTransaction at h
  cases hp : s.pc <;> rw [hp] at h
  · cases h
  · exact initTransaction_inTable h
  · exact sendTransaction_inTable h
  · exact recvTransaction_inTable h

/-! ### The addresses of a trace -/

/-- An event that leaves a trace inside a frame is an interrupt, the start of the frame, or one more of its slots. -/
theorem Framing.after_eq_inside {f : Framing} {e : Event} {l : List Event} (h : f.after e = .inside l) :
    (e = .irq ∧ f = .inside l) ∨ (e = .csL ∧ l = []) ∨ ∃ l', e ≠ .irq ∧ f = .inside l' ∧ l = e :: l' := by
  have slot_inside {l' : List Event} (h : addSlot l' e = .inside l) : l = e :: l' := by
    unfold addSlot at h
    split at h <;> cases h
    rfl
  unfold Framing.after at h
  split at h
  case h_3 => cases h; exact .inr (.inl ⟨rfl, rfl⟩)
  case h_9 => exact .inl ⟨rfl, h⟩
  case h_10 | h_11 | h_12 => exact .inr (.inr ⟨_, nofun, rfl, slot_inside h⟩)
  case h_6 | h_13 => split at h <;> cases h
  all_goals cases h

/-- Only interrupts are left out of a trace. -/
theorem withoutIrq_cons {e : Event} (he : e ≠ .irq) (es : List Event) :
    withoutIrq (e :: es) = e :: withoutIrq es := by
  simp [withoutIrq, he]

/-- The slot events of an open frame stand at the head of the trace, on top of its CS_L. -/
theorem withoutIrq_of_framing_inside {tr l : List Event} (h : framing tr = .inside l) :
    ∃ es, withoutIrq tr = l ++ .csL :: es := by
  induction tr generalizing l with
  | nil => cases h
  | cons e tr ih =>
    rcases Framing.after_eq_inside h with ⟨rfl, hf⟩ | ⟨rfl, rfl⟩ | ⟨l', he, hf, rfl⟩
    · exact ih hf
    · exact ⟨withoutIrq tr, rfl⟩
    · obtain ⟨es, hes⟩ := ih hf
      exact ⟨es, by rw [withoutIrq_cons he, hes, List.cons_append]⟩

/-- The byte sent after CS_L and one other byte is an address byte, and there is no other. -/
theorem mem_busAddresses_cons {e : Event} {es : List Event} {a : Addr} (h : a ∈ busAddresses (e :: es)) :
    a ∈ busAddresses es ∨ (e = .tx a ∧ ∃ b r, es = .tx b :: .csL :: r) := by
  unfold busAddresses at h
  split at h
  · rcases List.mem_cons.mp h with rfl | h
    · exact .inr ⟨rfl, _, _, rfl⟩
    · exact .inl h
  · exact .inl h

/-- The byte a transaction sends after its first one is its address (40_transport.md R82, R83). -/
theorem address_of_second_slot {t : Transaction} {k : Nat} {o b d : Byte} {es r : List Event}
    (ho : t.out[k]? = some o) (h : slotEvents t k d ++ .csL :: es = .tx b :: .csL :: r) : t.address = some o := by
  cases t with
  | rst => rcases k with _ | k <;> simp [Transaction.out, slotEvents] at ho h
  | rd a =>
    rcases k with _ | _ | k <;> simp [Transaction.out, slotEvents] at ho h
    simp [Transaction.address, ho]
  | wr a v =>
    rcases k with _ | _ | _ | k <;> simp [Transaction.out, slotEvents] at ho h
    simp [Transaction.address, ho]

/-! ### Closure under each move -/

/-- The open transaction, if there is one, is at an address of the table. -/
def OpenInTable (s : State) : Prop := ∀ t, s.openTransaction = some t → t.InTable Config.cfg

/-- With the transport idle there is no open transaction. -/
theorem openInTable_of_idle {s : State} (hx : s.xport = .idle) : OpenInTable s := by
  simp [OpenInTable, State.openTransaction, hx]

theorem AddressesClosed.openInTable {s : State} (h : AddressesClosed s) : OpenInTable s := fun t ht a => h.2 t a ht

/-- Without an event there is no new address on the bus. -/
theorem AddressesClosed.silent {s u : State} (h : AddressesClosed s) (htr : u.trace = s.trace) (ho : OpenInTable u) :
    AddressesClosed u :=
  ⟨by rw [htr]; exact h.1, fun t a ht => ho t ht a⟩

/-- An event is no new address on the bus, unless it sends the second byte of a frame; then the byte has to be in the
table. -/
theorem AddressesClosed.event {s u : State} (h : AddressesClosed s) (e : Event) (htr : u.trace = e :: s.trace)
    (ho : OpenInTable u)
    (he : ∀ a b r, e = .tx a → withoutIrq s.trace = .tx b :: .csL :: r → a ∈ Config.cfg.addresses) :
    AddressesClosed u := by
  obtain ⟨hbus, -⟩ := h
  refine ⟨fun a ha => ?_, fun t a ht => ho t ht a⟩
  rw [htr] at ha
  by_cases hirq : e = .irq
  · subst hirq
    exact hbus a ha
  · rw [withoutIrq_cons hirq] at ha
    rcases mem_busAddresses_cons ha with ha | ⟨hea, b, r, hes⟩
    · exact hbus a ha
    · exact he a b r hea hes

/-- F1 of a transaction at an address of the table. -/
theorem openFrame_addressesClosed {t : Transaction} {s : State} (h : AddressesClosed s)
    (ht : t.InTable Config.cfg) : AddressesClosed (openFrame t s) :=
  h.event .csL rfl (fun t' ht' => by cases ht'; exact ht) nofun

/-- A slot sends an address only as the second byte of its frame, which is the address of its transaction. -/
theorem slotStep_addressesClosed {t : Transaction} {k : Nat} {s : State} (h : AddressesClosed s) (hl : TraceLegal s)
    (hx : s.xport = .slot t k) : AddressesClosed (slotStep t k s) := by
  have ht : t.InTable Config.cfg := h.openInTable t (by simp [State.openTransaction, hx])
  have ho : OpenInTable (slotStep t k s) := by
    intro t' ht'
    obtain ⟨x, e, b, tr, c, d, rfl | rfl, hu⟩ := slotStep_frame t k s
    · rw [hu] at ht'
      cases ht'
      exact ht
    · rw [hu] at ht'
      cases ht'
      exact ht
  rcases slotStep_cases t k s with ⟨o, b, s1, hout, hr, hu⟩ | ⟨a, b, s1, -, -, hr, hu⟩ | ⟨s1, -, hr, hu⟩ | ⟨-, hu⟩
  · obtain ⟨_, _, rfl⟩ := xfer_frame hr
    refine h.event (.tx o) (by rw [hu]; rfl) ho fun a b r hoa htrace => ?_
    cases hoa
    unfold TraceLegal at hl
    rw [hx] at hl
    obtain ⟨-, -, hin⟩ := hl
    obtain ⟨es, hes⟩ := withoutIrq_of_framing_inside hin
    exact ht o (address_of_second_slot hout (hes.symm.trans htrace))
  · obtain ⟨_, _, rfl⟩ := xfer_frame hr
    exact h.event (.rx b) (by rw [hu]; rfl) ho nofun
  · obtain ⟨_, _, rfl⟩ := xfer_frame hr
    exact h.event .xfail (by rw [hu]; rfl) ho nofun
  · exact h.silent (by rw [hu]) ho

/-- F5 leaves the transaction to be returned from. -/
theorem closeFrame_addressesClosed {t : Transaction} {s : State} (h : AddressesClosed s) (hx : s.xport = .desel t) :
    AddressesClosed (closeFrame t s) := by
  refine h.event .csH rfl (fun t' ht' => h.openInTable t' ?_) nofun
  cases ht'
  simp [State.openTransaction, hx]

/-- The abort ends the transaction; its response, if it gives one, is no byte on the bus (60_exceptions.md R155). -/
theorem raise_addressesClosed {e : ErrorKind} {r : Response} {s : State} (h : AddressesClosed s)
    (hr : e.reported = some r) : AddressesClosed (raise e s) := by
  cases hp : s.pc with
  | idle =>
    rw [raise_idle hp]
    exact h.silent rfl (openInTable_of_idle rfl)
  | init l =>
    rw [raise_init hp hr]
    exact h.event (.rsp r) rfl (openInTable_of_idle rfl) nofun
  | send l =>
    rw [raise_send hp hr]
    exact h.event (.rsp r) rfl (openInTable_of_idle rfl) nofun
  | recv l =>
    rw [raise_recv hp hr]
    exact h.event (.rsp r) rfl (openInTable_of_idle rfl) nofun

/-- F6 ends the transaction. -/
theorem finishFrame_addressesClosed {s u : State} (h : AddressesClosed s) (hf : finishFrame s = .next u) :
    AddressesClosed u := by
  rcases finishFrame_next hf with ⟨-, rfl⟩ | ⟨-, -, rfl⟩ | ⟨l, -, -, rfl⟩ | ⟨l, -, hp, rfl⟩ | ⟨l, -, hp, hr⟩
  · exact raise_addressesClosed h rfl
  · exact h.silent rfl (openInTable_of_idle rfl)
  · exact h.silent rfl (openInTable_of_idle rfl)
  · obtain ⟨l', i, hu⟩ := sendReturn_frame (s := leaveFrame s) hp
    rw [hu]
    exact h.silent rfl (openInTable_of_idle rfl)
  · obtain ⟨l', i, n, b, rfl⟩ := recvReturn_frame (s := leaveFrame s) hp hr
    exact h.silent rfl (openInTable_of_idle rfl)

/-- A transaction: the one a micro-step opens, a slot of the open one, its end. -/
theorem transact_addressesClosed {t : Transaction} {s u : State} (h : AddressesClosed s) (hl : TraceLegal s)
    (hu : transact Config.cfg t s = .next u) : AddressesClosed u := by
  rcases transact_next hu with ⟨-, ht, rfl⟩ | ⟨k, hx, rfl⟩ | ⟨hx, rfl⟩ | ⟨-, hf⟩
  · exact openFrame_addressesClosed h (currentTransaction_inTable ht)
  · exact slotStep_addressesClosed h hl hx
  · exact closeFrame_addressesClosed h hx
  · exact finishFrame_addressesClosed h hf

/-- A micro-step of INIT opens a frame at an address of the table, or leaves the bus alone. -/
theorem initStep_addressesClosed {l : InitLabel} {s u : State} (h : AddressesClosed s) (hx : s.xport = .idle)
    (hu : initStep Config.cfg l s = .next u) : AddressesClosed u := by
  rcases initStep_next hu with ⟨t, ht, rfl⟩ | ⟨-, rfl⟩ | ⟨v, -, -, rfl⟩ | ⟨-, -, rfl⟩ | ⟨j, -, -, rfl⟩ | ⟨-, -, rfl⟩ |
    ⟨-, rfl⟩
  · exact openFrame_addressesClosed h (initTransaction_inTable ht)
  · exact h.event (.dly Config.tSettleMs) rfl (openInTable_of_idle hx) nofun
  · exact h.silent rfl (openInTable_of_idle hx)
  · exact raise_addressesClosed h rfl
  · exact h.silent rfl (openInTable_of_idle hx)
  · exact h.silent rfl (openInTable_of_idle hx)
  · exact h.event (.rsp .ok) rfl (openInTable_of_idle hx) nofun

/-- A micro-step of SEND opens a frame at an address of the table, or leaves the bus alone. -/
theorem sendStep_addressesClosed {l : SendLabel} {s u : State} (h : AddressesClosed s) (hx : s.xport = .idle)
    (hu : sendStep Config.cfg l s = .next u) : AddressesClosed u := by
  rcases sendStep_next hu with ⟨t, ht, rfl⟩ | ⟨-, rfl⟩ | ⟨-, rfl⟩ | ⟨-, rfl⟩ | ⟨-, -, rfl⟩ | ⟨-, rfl⟩
  · have hprep : AddressesClosed (sendPrepared l s) := h
    exact openFrame_addressesClosed hprep (sendTransaction_inTable ht)
  · exact h.silent rfl (openInTable_of_idle hx)
  · exact h.silent rfl (openInTable_of_idle hx)
  · exact h.event (.dly Config.tPollMs) rfl (openInTable_of_idle hx) nofun
  · exact h.silent rfl (openInTable_of_idle hx)
  · exact h.event (.rsp .ok) rfl (openInTable_of_idle hx) nofun

/-- A micro-step of RECV opens a frame at an address of the table, or leaves the bus alone. -/
theorem recvStep_addressesClosed {l : RecvLabel} {s u : State} (h : AddressesClosed s) (hx : s.xport = .idle)
    (hu : recvStep Config.cfg l s = .next u) : AddressesClosed u := by
  rcases recvStep_next hu with ⟨t, ht, rfl⟩ | ⟨-, -, rfl⟩ | ⟨-, -, rfl⟩ | ⟨-, rfl⟩ | ⟨-, -, rfl⟩ | ⟨-, -, rfl⟩ | ⟨-, rfl⟩
  · exact openFrame_addressesClosed h (recvTransaction_inTable ht)
  · exact h.silent rfl (openInTable_of_idle hx)
  · exact h.event (.rsp .noData) rfl (openInTable_of_idle hx) nofun
  · exact h.silent rfl (openInTable_of_idle hx)
  · exact h.silent rfl (openInTable_of_idle hx)
  · exact h.silent rfl (openInTable_of_idle hx)
  · exact h.event (.rsp (frameResponse s)) rfl (openInTable_of_idle hx) nofun

/-! ### Every operation, every step -/

/-- Every operation run with a legal trace keeps the addresses closed; only a slot needs the trace. -/
theorem exec_addressesClosed {i : Instr} {s u : State} (h : AddressesClosed s) (hl : TraceLegal s)
    (hu : exec i s = .next u) : AddressesClosed u := by
  rcases exec_next hu with ⟨t, -, hu⟩ | ⟨r, -, hx, -, rfl⟩ | ⟨r, l, -, hx, -, hu⟩ | ⟨a, n, d, -, hx, -, -, -, rfl⟩ |
    ⟨a, n, d, l, -, hx, -, hu⟩ | ⟨a, -, hx, -, -, rfl⟩ | ⟨a, l, -, hx, -, hu⟩ | ⟨-, rfl⟩
  · exact transact_addressesClosed h hl hu
  · exact h.event (.cmd (.init r)) rfl (openInTable_of_idle hx) nofun
  · exact initStep_addressesClosed h hx hu
  · exact h.event (.cmd (.send a (payload n d))) rfl (openInTable_of_idle hx) nofun
  · exact sendStep_addressesClosed h hx hu
  · exact h.event (.cmd (.recv a)) rfl (openInTable_of_idle hx) nofun
  · exact recvStep_addressesClosed h hx hu
  · exact h.event .irq rfl h.openInTable nofun

/-- Settles O59: the mover, the pin and the environment's lists are no part of the trace or the transport, so a step is
that of the operation it runs, or the reset of the block. Gating is not needed. -/
theorem addressClosureKept : Obligations.AddressClosureKept := by
  intro s u _ hl h hstep
  obtain ⟨m, s1, hm, hcases⟩ := step_next hstep
  obtain ⟨ms, d, rfl⟩ := takeMove_frame hm
  rcases hcases with ⟨-, i, s2, hf, he⟩ | ⟨-, -, rfl⟩ | ⟨-, -, rfl⟩ | ⟨l, -, -, rfl⟩ | ⟨-, rfl⟩
  · obtain ⟨q, rfl⟩ := fetch_frame hf
    exact exec_addressesClosed (s := { s with moves := ms, draws := d, port := q }) h hl he
  · exact h
  · exact h.event .irq rfl h.openInTable nofun
  · exact h
  · exact reset_addressesClosed

end Sys2Proof.Machine
end

section
/-!
PROOF. The decoder accepts exactly what the formats give (spec 30_encoding.md R60 to R64, R69, R71, R72): one exact
condition for each of the three forms of an encoding.
-/

namespace Sys2Proof

/-- The frames that select an operation: RST with one byte slot, RD and WR with three (R61 to R64). -/
theorem decodeFrame_eq_ok_iff {w : List Byte} {i : Instr} :
    decodeFrame w = .ok i ↔
      (w = [0xC0] ∧ .rst = i) ∨ (∃ a d, w = [0x03, a, d] ∧ .rd a = i) ∨ ∃ a v, w = [0x02, a, v] ∧ .wr a v = i := by
  constructor
  · intro h
    unfold decodeFrame at h
    split at h
    · cases h
    · split at h
      · next hb =>
        subst hb
        split at h <;> cases h
        exact .inl ⟨rfl, rfl⟩
      · split at h
        · next hb =>
          subst hb
          split at h <;> cases h
          exact .inr (.inl ⟨_, _, rfl, rfl⟩)
        · split at h
          · next hb =>
            subst hb
            split at h <;> cases h
            exact .inr (.inr ⟨_, _, rfl, rfl⟩)
          · cases h
  · rintro (⟨rfl, rfl⟩ | ⟨a, d, rfl, rfl⟩ | ⟨a, v, rfl, rfl⟩) <;> rfl

/-- The command codes that select an operation, with the operands taken from the port (R69, R72 (b)). -/
theorem decodeCommand_eq_ok_iff {p : CmdPort} {i : Instr} :
    decodeCommand p = .ok i ↔
      (p.op = 0b00 ∧ .init p.rate = i) ∨ (p.op = 0b01 ∧ .send p.id p.len p.data = i) ∨
        (p.op = 0b10 ∧ .recv p.id = i) := by
  constructor
  · intro h
    unfold decodeCommand at h
    split at h
    · next hop => cases h; exact .inl ⟨hop, rfl⟩
    · split at h
      · next hop => cases h; exact .inr (.inl ⟨hop, rfl⟩)
      · split at h
        · next hop => cases h; exact .inr (.inr ⟨hop, rfl⟩)
        · cases h
  · rintro (⟨hop, rfl⟩ | ⟨hop, rfl⟩ | ⟨hop, rfl⟩) <;> simp [decodeCommand, hop]

/-- The one pair of samples that selects an operation (R71). -/
theorem decodeEdge_eq_ok_iff {a b : Level} {i : Instr} :
    decodeEdge a b = .ok i ↔ a = .high ∧ b = .low ∧ .irq = i := by
  constructor
  · intro h
    cases a <;> cases b <;> cases h
    exact ⟨rfl, rfl, rfl⟩
  · rintro ⟨rfl, rfl, rfl⟩
    rfl

/-- Settles O3, form by form: within a form the operation fixes which of the formats applies. -/
theorem decodesExactlyTheFormats : Obligations.DecodesExactlyTheFormats := by
  intro e i
  cases e with
  | frame w =>
    rw [decode, decodeFrame_eq_ok_iff]
    cases i <;> simp
  | command p =>
    rw [decode, decodeCommand_eq_ok_iff]
    cases i <;> simp
  | edge a b =>
    rw [decode, decodeEdge_eq_ok_iff]
    cases i <;> simp

/-- Settles O2: what the encoder writes has the form of the operation's format. -/
theorem decodeInvertsEncode : Obligations.DecodeInvertsEncode := by
  intro i
  rw [decodesExactlyTheFormats]
  cases i with
  | rst => rfl
  | rd a => exact ⟨_, rfl⟩
  | wr a v => rfl
  | init r => exact ⟨_, rfl, rfl, rfl⟩
  | send id n d => exact ⟨_, rfl, rfl, rfl, rfl, rfl⟩
  | recv id => exact ⟨_, rfl, rfl, rfl⟩
  | irq => rfl

/-- Settles O1: each word written out has the form of its operation's format. -/
theorem writtenWordsDecode : Obligations.WrittenWordsDecode := by
  have formats := decodesExactlyTheFormats
  exact ⟨(formats _ _).mpr rfl, (formats _ _).mpr ⟨_, rfl⟩, (formats _ _).mpr rfl,
    fun _ _ _ _ => (formats _ _).mpr ⟨_, rfl, rfl, rfl⟩,
    fun _ _ _ _ => (formats _ _).mpr ⟨_, rfl, rfl, rfl, rfl, rfl⟩,
    fun _ _ _ _ => (formats _ _).mpr ⟨_, rfl, rfl, rfl⟩, (formats _ _).mpr rfl⟩

end Sys2Proof
end

section
/-!
PROOF. Operand assembly and the tests on bytes read (spec 30_encoding.md R65, R68).
-/

namespace Sys2Proof.Machine

/-- The high byte is the upper eight bits of the identifier (R65). -/
theorem sidh_eq_extract (i : BitVec 11) : sidh i = i.extractLsb' 3 8 := by
  ext k hk
  simp [sidh]

/-- The low byte is the lower three bits of the identifier over five zero bits (R65). -/
theorem sidl_eq_extract_append (i : BitVec 11) : sidl i = i.extractLsb' 0 3 ++ 0b00000#5 := by
  have mask : (i.setWidth 8 &&& 0x07).extractLsb' 0 3 = i.extractLsb' 0 3 := by
    ext k hk
    interval_cases k <;> simp
  rw [sidl, BitVec.shiftLeft_eq_concat_of_lt (by decide), BitVec.cast_eq, mask]

/-- Settles O4: the two bytes hold disjoint bits of the identifier, and all of them. -/
theorem identifierSplit : Obligations.IdentifierSplit := by
  intro i
  refine ⟨sidh_eq_extract i, sidl_eq_extract_append i, ?_⟩
  rw [sidh_eq_extract, sidl_eq_extract_append, BitVec.extractLsb'_append_eq_left,
    BitVec.extractLsb'_append_extractLsb'_eq_extractLsb' (show 3 = 0 + 3 from rfl)]
  exact BitVec.extractLsb'_eq_self

/-- Settles O5, by the definitions of the three tests. -/
theorem byteTests : Obligations.ByteTests := fun b =>
  ⟨by simp [busy], by simp [rxFull, Config.rx0if], rfl⟩

end Sys2Proof.Machine
end

section
/-!
PROOF. A sample of the interrupt pin, and IRQ (spec 30_encoding.md R71, 43_recv_interrupt.md R137, 10_state.md R31).
-/

namespace Sys2Proof.Machine

/-- A pair of samples selects IRQ exactly when it is a falling edge. -/
theorem decode_edge_eq_irq_iff {a b : Level} : decode (.edge a b) = .ok .irq ↔ a = .high ∧ b = .low := by
  simp [decode, decodeEdge_eq_ok_iff]

/-- With a sample to come, a step is the interrupt agent's. -/
theorem step_sample {s : State} {l : Level} {ms : List Move} (h : s.moves = .sample l :: ms) :
    step s = sampleStep l { s with moves := ms } := by
  simp [step, takeMove_cons h]

/-- A sample that is a falling edge runs IRQ. -/
theorem sampleStep_edge {s : State} {l : Level} (h : s.intPrev = .high ∧ l = .low) :
    sampleStep l s = exec .irq { s with intPrev := l } := by
  simp [sampleStep, samplePin, decode_edge_eq_irq_iff.mpr h]

/-- Any other sample only moves `INT_PREV`. -/
theorem sampleStep_no_edge {s : State} {l : Level} (h : ¬(s.intPrev = .high ∧ l = .low)) :
    sampleStep l s = .next { s with intPrev := l } := by
  unfold sampleStep samplePin
  cases hd : decode (.edge s.intPrev l) with
  | error e => rfl
  | ok i =>
    obtain ⟨hp, hl, -⟩ := decodeEdge_eq_ok_iff.mp hd
    exact absurd ⟨hp, hl⟩ h

/-- Settles O44: the pair of samples decides, and IRQ sets the flag by one assignment. -/
theorem fallingEdgeSetsPendingOnly : Obligations.FallingEdgeSetsPendingOnly := by
  refine ⟨fun _ _ => decode_edge_eq_irq_iff, fun _ => rfl, fun s ms l => ⟨fun h => ?_, fun h => ?_⟩⟩
  · rw [step_sample rfl]
    exact sampleStep_edge (s := { s with moves := ms }) h
  · rw [step_sample rfl]
    exact sampleStep_no_edge (s := { s with moves := ms }) h

end Sys2Proof.Machine
end

section
/-!
PROOF. RST, RD and WR from call to return (spec 40_transport.md R80 to R83): the step of each slot, the run of a whole
frame from F1 to F5, and the micro-steps that open one (30_encoding.md R74).
-/

namespace Sys2Proof.Machine

/-! ### The operation in progress -/

/-- A run of one step answers what the step does. -/
theorem run_single (s : State) : Sys2Proof.core.run 1 s = step s := by
  change _ = Sys2Proof.core.step s
  simp only [Host.Core.run]
  cases Sys2Proof.core.step s <;> rfl

/-- With the transport idle and INIT in progress, a step of the normal context is INIT's micro-step. -/
theorem step_init {s : State} {l : InitLabel} {ms : List Move} (hm : s.moves = .run :: ms) (hx : s.xport = .idle)
    (hp : s.pc = .init l) : step s = initStep Config.cfg l { s with moves := ms } := by
  rw [step_run hm]
  simp [runStep, fetch, fetchCommand, hx, hp, exec, execInit, runInit, whenTransportIdle]

/-- With the transport idle and SEND in progress, a step of the normal context is SEND's micro-step. -/
theorem step_send {s : State} {l : SendLabel} {ms : List Move} (hm : s.moves = .run :: ms) (hx : s.xport = .idle)
    (hp : s.pc = .send l) : step s = sendStep Config.cfg l { s with moves := ms } := by
  rw [step_run hm]
  simp [runStep, fetch, fetchCommand, hx, hp, exec, execSend, runSend, whenTransportIdle]

/-- With the transport idle and RECV in progress, a step of the normal context is RECV's micro-step. -/
theorem step_recv {s : State} {l : RecvLabel} {ms : List Move} (hm : s.moves = .run :: ms) (hx : s.xport = .idle)
    (hp : s.pc = .recv l) : step s = recvStep Config.cfg l { s with moves := ms } := by
  rw [step_run hm]
  simp [runStep, fetch, fetchCommand, hx, hp, exec, execRecv, runRecv, whenTransportIdle]

/-- F1 at a micro-step that is a transaction; S1 counts the poll (42_send.md R111, assumption 4). -/
theorem step_opens_frame {s : State} {t : Transaction} {ms : List Move} (hm : s.moves = .run :: ms)
    (hx : s.xport = .idle) (ht : currentTransaction Config.cfg s = some t) :
    step s = .next (openFrame t
      { s with moves := ms, cnt := if s.pc = .send .s1 then s.cnt + 1 else s.cnt }) := by
  unfold currentTransaction at ht
  cases hp : s.pc with
  | idle => rw [hp] at ht; cases ht
  | init l =>
    rw [hp] at ht
    rw [step_init hm hx hp, initStep_opens (s := { s with moves := ms }) ht]
    simp [hp]
  | send l =>
    rw [hp] at ht
    rw [step_send hm hx hp, sendStep_opens (s := { s with moves := ms }) ht]
    simp [sendPrepared, hp]
  | recv l =>
    rw [hp] at ht
    rw [step_recv hm hx hp, recvStep_opens (s := { s with moves := ms }) ht]
    simp [hp]

/-! ### The slots -/

/-- F2: a transmit slot that does not fail. -/
theorem step_transmits {s : State} {t : Transaction} {k : Nat} {o b : Byte} {ms : List Move} {rest : List Reply}
    (hx : s.xport = .slot t k) (ho : t.out[k]? = some o) (hm : s.moves = .run :: ms)
    (hc : s.chip = .ok b :: rest) :
    step s = .next { s with moves := ms, chip := rest, xport := .slot t (k + 1), trace := .tx o :: s.trace } := by
  rw [step_slot hx hm]
  simp [slotStep, ho, transmitSlot, xfer, hc, emit]

/-- F3: the third slot of RD, if it does not fail, latches its byte into `RDATA` (40_transport.md R82). -/
theorem step_receives {s : State} {a : Addr} {b : Byte} {ms : List Move} {rest : List Reply}
    (hx : s.xport = .slot (.rd a) 2) (hm : s.moves = .run :: ms) (hc : s.chip = .ok b :: rest) :
    step s = .next { s with
      moves := ms, chip := rest, rdata := b, xport := .slot (.rd a) 3, trace := .rx b :: s.trace } := by
  rw [step_slot hx hm]
  simp [slotStep, Transaction.out, Transaction.slots, Transaction.nin, receiveSlot, xfer, hc, emit]

/-- F4: with no slot left the frame is to be closed. -/
theorem step_slots_done {s : State} {t : Transaction} {ms : List Move} (hx : s.xport = .slot t t.slots)
    (hm : s.moves = .run :: ms) : step s = .next { s with moves := ms, xport := .desel t } := by
  have hout : t.out.length ≤ t.slots := Nat.le_add_right _ _
  rw [step_slot hx hm]
  simp [slotStep, hout]

/-- F4 and F5: after the last slot the frame is closed. -/
theorem run_slots_done {s : State} {t : Transaction} {ms : List Move} (hx : s.xport = .slot t t.slots)
    (hm : s.moves = .run :: .run :: ms) :
    Sys2Proof.core.run 2 s =
      .next { s with moves := ms, csN := .high, xport := .closed t, trace := .csH :: s.trace } :=
  run_next (step_slots_done hx hm) (run_one (step_desel rfl rfl))

/-- F2 to F5 of an open frame whose slots do not fail: RST sends one byte, RD sends two and receives one, WR sends
three. -/
theorem run_open_frame {s : State} {t : Transaction} {bs : List Byte} {ms : List Move} {rest : List Reply}
    (hlen : bs.length = t.slots) (hm : s.moves = List.replicate (t.slots + 2) .run ++ ms)
    (hc : s.chip = bs.map Reply.ok ++ rest) :
    Sys2Proof.core.run (t.slots + 2) (openFrame t s) =
      .next { s with
        moves := ms, chip := rest, csN := .high, errf := false, xport := .closed t,
        rdata := rdataAfter t (bs.getLastD 0) s.rdata, trace := frameEvents t (bs.getLastD 0) ++ s.trace } := by
  cases t with
  | rst =>
    obtain ⟨b, rfl⟩ := List.length_eq_one_iff.mp hlen
    exact run_next (step_transmits rfl rfl hm hc) (run_slots_done rfl rfl)
  | rd a =>
    obtain ⟨b0, b1, d, rfl⟩ := List.length_eq_three.mp hlen
    exact run_next (step_transmits rfl rfl hm hc)
      (run_next (step_transmits rfl rfl rfl rfl) (run_next (step_receives rfl rfl rfl) (run_slots_done rfl rfl)))
  | wr a v =>
    obtain ⟨b0, b1, b2, rfl⟩ := List.length_eq_three.mp hlen
    exact run_next (step_transmits rfl rfl hm hc)
      (run_next (step_transmits rfl rfl rfl rfl) (run_next (step_transmits rfl rfl rfl rfl) (run_slots_done rfl rfl)))

/-- F1 to F5 of a micro-step that is a transaction, when no slot fails (40_transport.md R81 to R83). -/
theorem run_micro_step {s : State} {t : Transaction} {bs : List Byte} {ms : List Move} {rest : List Reply}
    (ht : currentTransaction Config.cfg s = some t) (hlen : bs.length = t.slots) (hx : s.xport = .idle)
    (hm : s.moves = List.replicate (t.slots + 3) .run ++ ms) (hc : s.chip = bs.map Reply.ok ++ rest) :
    Sys2Proof.core.run (t.slots + 3) s =
      .next { s with
        moves := ms, chip := rest, csN := .high, errf := false, xport := .closed t,
        rdata := rdataAfter t (bs.getLastD 0) s.rdata, cnt := if s.pc = .send .s1 then s.cnt + 1 else s.cnt,
        trace := frameEvents t (bs.getLastD 0) ++ s.trace } :=
  run_next (step_opens_frame hm hx ht) (run_open_frame hlen rfl hc)

/-! ### Which steps open a frame -/

/-- No transaction is under way exactly when the transport is idle. -/
theorem openTransaction_eq_none_iff {s : State} : s.openTransaction = none ↔ s.xport = .idle := by
  unfold State.openTransaction
  cases s.xport <;> simp

/-- A micro-step of INIT begins its own transaction only (41_initialize.md R104). -/
theorem initStep_begins {c : Cfg} {l : InitLabel} {s u : State} {t : Transaction} (hx : s.xport = .idle)
    (h : initStep c l s = .next u) (hu : u.openTransaction = some t) : initTransaction c l s = some t := by
  rcases initStep_next h with ⟨t', ht, rfl⟩ | ⟨-, rfl⟩ | ⟨v, -, -, rfl⟩ | ⟨-, -, rfl⟩ | ⟨j, -, -, rfl⟩ | ⟨-, -, rfl⟩ |
    ⟨-, rfl⟩
  case inl => exact ht.trans hu
  case inr.inr.inr.inl =>
    obtain ⟨tr, hr⟩ := raise_frame .unknownBitRate s
    rw [hr] at hu
    cases hu
  all_goals cases (openTransaction_eq_none_iff.mpr hx).symm.trans hu

/-- A micro-step of SEND begins its own transaction only (42_send.md R118). -/
theorem sendStep_begins {c : Cfg} {l : SendLabel} {s u : State} {t : Transaction} (hx : s.xport = .idle)
    (h : sendStep c l s = .next u) (hu : u.openTransaction = some t) : sendTransaction c l s = some t := by
  rcases sendStep_next h with ⟨t', ht, rfl⟩ | ⟨-, rfl⟩ | ⟨-, rfl⟩ | ⟨-, rfl⟩ | ⟨-, -, rfl⟩ | ⟨-, rfl⟩
  case inl => exact ht.trans hu
  all_goals cases (openTransaction_eq_none_iff.mpr hx).symm.trans hu

/-- A micro-step of RECV begins its own transaction only (43_recv_interrupt.md R136). -/
theorem recvStep_begins {c : Cfg} {l : RecvLabel} {s u : State} {t : Transaction} (hx : s.xport = .idle)
    (h : recvStep c l s = .next u) (hu : u.openTransaction = some t) : recvTransaction c l s = some t := by
  rcases recvStep_next h with ⟨t', ht, rfl⟩ | ⟨-, -, rfl⟩ | ⟨-, -, rfl⟩ | ⟨-, rfl⟩ | ⟨-, -, rfl⟩ | ⟨-, -, rfl⟩ | ⟨-, rfl⟩
  case inl => exact ht.trans hu
  all_goals cases (openTransaction_eq_none_iff.mpr hx).symm.trans hu

/-- An operation fetched with the transport idle begins the transaction of its micro-step only: no fetch finds a
transaction there, and an acceptance opens no frame. -/
theorem exec_begins {i : Instr} {s s1 u : State} {t : Transaction} (hx : s.xport = .idle) (hf : fetch s = .run i s1)
    (h : exec i s1 = .next u) (hu : u.openTransaction = some t) : currentTransaction Config.cfg s = some t := by
  obtain ⟨q, rfl⟩ := fetch_frame hf
  have notOpen : s.openTransaction ≠ some t := by simp [openTransaction_eq_none_iff.mpr hx]
  rcases exec_next h with ⟨t', rfl, -⟩ | ⟨r, -, -, -, rfl⟩ | ⟨r, l, -, -, hp, hl⟩ | ⟨a, n, d, -, -, -, -, -, rfl⟩ |
    ⟨a, n, d, l, -, -, hp, hl⟩ | ⟨a, -, -, -, -, rfl⟩ | ⟨a, l, -, -, hp, hl⟩ | ⟨-, rfl⟩
  · obtain ⟨⟨k, h⟩ | h | h, -⟩ := fetch_transaction hf <;> cases hx.symm.trans h
  · exact absurd hu notOpen
  · simp only [currentTransaction, show s.pc = .init l from hp]
    exact initStep_begins (s := { s with port := q }) hx hl hu
  · exact absurd hu notOpen
  · simp only [currentTransaction, show s.pc = .send l from hp]
    exact sendStep_begins (s := { s with port := q }) hx hl hu
  · exact absurd hu notOpen
  · simp only [currentTransaction, show s.pc = .recv l from hp]
    exact recvStep_begins (s := { s with port := q }) hx hl hu
  · exact absurd hu notOpen

/-- A step begins only the transaction of the micro-step in progress (30_encoding.md R74). -/
theorem step_begins {s u : State} {t : Transaction} (h : step s = .next u) (hs : s.openTransaction = none)
    (hu : u.openTransaction = some t) : currentTransaction Config.cfg s = some t := by
  have hx : s.xport = .idle := openTransaction_eq_none_iff.mp hs
  have notOpen : s.openTransaction ≠ some t := by simp [hs]
  obtain ⟨m, s1, hm, hstep⟩ := step_next h
  obtain ⟨ms, d, rfl⟩ := takeMove_frame hm
  rcases hstep with ⟨-, i, s2, hf, he⟩ | ⟨-, -, rfl⟩ | ⟨-, -, rfl⟩ | ⟨l, -, -, rfl⟩ | ⟨-, rfl⟩
  · exact exec_begins (s := { s with moves := ms, draws := d }) hx hf he hu
  · exact absurd hu notOpen
  · exact absurd hu notOpen
  · exact absurd hu notOpen
  · cases hu

/-- Settles O12: the frame is run from F1 to F5, and F6 with no failed slot returns to the caller; a transaction is
begun by a micro-step only. -/
theorem transactionsRunToTheirEnd : Obligations.TransactionsRunToTheirEnd := by
  refine ⟨fun t bs s ms rest ht hlen hx hm hc => ?_, decodeCommand_ne_transaction, fun t s u h hs hu => ?_⟩
  · rw [List.replicate_succ', List.append_assoc] at hm
    rw [run_add (t.slots + 3) 1 _ _ (run_micro_step ht hlen hx hm hc), run_single, step_closed rfl rfl]
    rfl
  · have ht := step_begins h hs hu
    exact ⟨fun hp => by simp [currentTransaction_idle hp] at ht, ht⟩

end Sys2Proof.Machine
end

section
/-!
PROOF. The steps of the frame procedure one by one (spec 40_transport.md R80): what the bus answers in a slot, the failed
slot, F1, F4 and F5, the abort at F6, and what is refused while a frame is open.
-/

namespace Sys2Proof.Machine

/-! ### Slots -/

/-- A byte slot shows nothing by itself. -/
theorem xfer_trace {s s1 : State} {r : Reply} (h : xfer s = (r, s1)) : s1.trace = s.trace := by
  obtain ⟨c, d, rfl⟩ := xfer_frame h
  rfl

/-- F2: a transmit slot that does not fail sends its byte. -/
theorem slotStep_transmits {t : Transaction} {k : Nat} {o b : Byte} {s s1 : State} (ho : t.out[k]? = some o)
    (hr : xfer s = (.ok b, s1)) :
    slotStep t k s = { s1 with xport := .slot t (k + 1), trace := .tx o :: s.trace } := by
  simp [slotStep, ho, transmitSlot, hr, emit, xfer_trace hr]

/-- F3: the third slot of RD, if it does not fail, latches its byte into `RDATA` (40_transport.md R82). -/
theorem slotStep_receives {a : Addr} {b : Byte} {s s1 : State} (hr : xfer s = (.ok b, s1)) :
    slotStep (.rd a) 2 s = { s1 with rdata := b, xport := .slot (.rd a) 3, trace := .rx b :: s.trace } := by
  simp [slotStep, Transaction.out, Transaction.slots, Transaction.nin, receiveSlot, hr, emit, xfer_trace hr]

/-- A slot whose transfer fails ends the exchange (40_transport.md R87). -/
theorem slotStep_fails {t : Transaction} {k : Nat} {s s1 : State} (hk : k < t.slots) (hr : xfer s = (.fail, s1)) :
    slotStep t k s = { s1 with errf := true, xport := .desel t, trace := .xfail :: s.trace } := by
  rcases slotStep_cases t k s with ⟨o, b, s2, -, hok, -⟩ | ⟨a, b, s2, -, -, hok, -⟩ | ⟨s2, -, hfail, hu⟩ | ⟨hge, -⟩
  · cases hr.symm.trans hok
  · cases hr.symm.trans hok
  · cases hr.symm.trans hfail
    rw [hu, emit, xfer_trace hr]
  · omega

/-- F4: with no slot left the frame goes to T_DESEL without an event. -/
theorem slotStep_done {t : Transaction} {k : Nat} (hk : t.slots ≤ k) (s : State) :
    slotStep t k s = { s with xport := .desel t } := by
  have hout : t.out.length ≤ k := (Nat.le_add_right _ _).trans hk
  simp [slotStep, hout, hk]

/-- Settles O7: the reply list answers a slot while it lasts; a transmit slot and the receive slot of RD by the slot
equations. -/
theorem slotsExchangeBytes : Obligations.SlotsExchangeBytes := by
  refine ⟨fun s r rs hc => ?_, fun s hc => ?_, fun t k o b s s1 ho hx hr => ?_, fun a b s s1 hx hr => ?_⟩
  · simp [xfer, hc]
  · simp [xfer, hc]
  · rw [exec_instr, transact_slot hx, slotStep_transmits ho hr]
  · rw [← slotStep_receives hr]
    exact transact_slot hx

/-- Settles O8: whichever slot it is, its transfer is the one that failed. -/
theorem failedSlotEndsExchange : Obligations.FailedSlotEndsExchange := by
  intro t k s s1 hk hx hr
  rw [exec_instr, transact_slot hx, slotStep_fails hk hr]

/-! ### F1, F4, F5, F6 -/

/-- Settles O9: F1 at a micro-step that is the transaction, F4 with no slot left, F5 at T_DESEL. -/
theorem frameOpensAndCloses : Obligations.FrameOpensAndCloses := by
  refine ⟨fun t s hx ht => ?_, fun t s => ?_, fun t s => ?_⟩
  · rw [exec_instr, transact_inside hx ht]
    rfl
  · rw [exec_instr, transact_slot rfl, slotStep_done le_rfl]
  · rw [exec_instr, transact_desel rfl]
    rfl

/-- F6 after a failed slot raises TransportError (60_exceptions.md R146). -/
theorem finishFrame_failed {s : State} (h : s.errf = true) : finishFrame s = .next (raise .transportError s) := by
  simp [finishFrame, h]

/-- Settles O10: F6 raises TransportError, whose abort depends on the operation in progress. -/
theorem transportErrorAborts : Obligations.TransportErrorAborts := by
  refine fun t s => ⟨fun l => ?_, fun l => ?_, fun l => ?_, ?_⟩ <;>
    rw [exec_instr, transact_closed rfl, finishFrame_failed rfl]
  · rw [raise_init rfl rfl]
  · rw [raise_send rfl rfl]
  · rw [raise_recv rfl rfl]
  · rw [raise_idle rfl]

/-! ### No nesting -/

/-- While a transaction is under way the guard of the micro-steps refuses. -/
theorem whenTransportIdle_frameOpen {s : State} (k : Host.Outcome State Fault Refusal) (hx : s.xport ≠ .idle) :
    whenTransportIdle s k = .refused .frameOpen := by
  unfold whenTransportIdle
  cases h : s.xport with
  | idle => exact absurd h hx
  | slot t k => rfl
  | desel t => rfl
  | closed t => rfl

/-- Another transaction's frame is never entered (40_transport.md R85). -/
theorem transact_frameOpen {c : Cfg} {t t' : Transaction} {s : State} (h : s.openTransaction = some t')
    (hne : t ≠ t') : transact c t s = .refused .frameOpen := by
  unfold transact
  rcases xport_of_openTransaction h with ⟨k, hx⟩ | hx | hx <;> simp [hx, hne.symm]

/-- While a transaction is under way INIT is neither accepted nor goes on. -/
theorem runInit_frameOpen {c : Cfg} {r : RateName} {s : State} (hx : s.xport ≠ .idle)
    (ho : s.op = .idle ∨ s.op = .init) : runInit c r s = .refused .frameOpen := by
  unfold runInit
  cases hp : s.pc
  case idle | init => exact whenTransportIdle_frameOpen _ hx
  case send | recv => simp [State.op, hp] at ho

/-- While a transaction is under way SEND is neither accepted nor goes on. -/
theorem runSend_frameOpen {c : Cfg} {i : BitVec 11} {n : BitVec 4} {d : Buf} {s : State} (hx : s.xport ≠ .idle)
    (ho : s.op = .idle ∨ s.op = .send) : runSend c i n d s = .refused .frameOpen := by
  unfold runSend
  cases hp : s.pc
  case idle | send => exact whenTransportIdle_frameOpen _ hx
  case init | recv => simp [State.op, hp] at ho

/-- While a transaction is under way RECV is neither accepted nor goes on. -/
theorem runRecv_frameOpen {c : Cfg} {i : BitVec 11} {s : State} (hx : s.xport ≠ .idle)
    (ho : s.op = .idle ∨ s.op = .recv) : runRecv c i s = .refused .frameOpen := by
  unfold runRecv
  cases hp : s.pc
  case idle | recv => exact whenTransportIdle_frameOpen _ hx
  case init | send => simp [State.op, hp] at ho

/-- Settles O14: a transaction meets the frame of another, an operation meets the guard of its micro-steps. -/
theorem noNesting : Obligations.NoNesting := by
  intro t t' s h
  have hx : s.xport ≠ .idle := fun hx => by simp [openTransaction_eq_none_iff.mpr hx] at h
  refine ⟨fun hne => ?_, fun r => runInit_frameOpen hx, fun i n d => runSend_frameOpen hx, fun i => runRecv_frameOpen hx⟩
  rw [exec_instr, transact_frameOpen h hne]

end Sys2Proof.Machine
end

section
/-!
PROOF. Runs and frames of RST, RD and WR (spec 40_transport.md R80 to R84): chip-select is released whatever the bus
answers, a micro-step that is a transaction makes its frame, and what a step of a transaction leaves unchanged.
-/

namespace Sys2Proof.Machine

/-! ### Release of chip-select -/

/-- Within `n` steps the frame of `t` is closed with chip-select high. -/
def ReleasedWithin (t : Transaction) (n : Nat) (s : State) : Prop :=
  ∃ m u, m ≤ n ∧ Sys2Proof.core.run m s = .next u ∧ u.csN = .high ∧ u.xport = .closed t

theorem ReleasedWithin.mono {t : Transaction} {n n' : Nat} {s : State} (h : ReleasedWithin t n s) (hn : n ≤ n') :
    ReleasedWithin t n' s := by
  obtain ⟨m, v, hm, hrest⟩ := h
  exact ⟨m, v, hm.trans hn, hrest⟩

/-- One step before a state that is released within `n` steps. -/
theorem ReleasedWithin.of_step {t : Transaction} {n : Nat} {s u : State} (hs : step s = .next u)
    (h : ReleasedWithin t n u) : ReleasedWithin t (n + 1) s := by
  obtain ⟨m, v, hm, hrun, hv⟩ := h
  exact ⟨m + 1, v, Nat.succ_le_succ hm, run_next hs hrun, hv⟩

/-- F5 releases chip-select (40_transport.md R84). -/
theorem releasedWithin_of_desel {t : Transaction} {s : State} {ms : List Move} (hx : s.xport = .desel t)
    (hm : s.moves = .run :: ms) : ReleasedWithin t 1 s :=
  ⟨1, _, le_rfl, run_one (step_desel hx hm), rfl, rfl⟩

/-- A step at T_SLOT(k) goes to the next slot, if there is one left, or to T_DESEL. -/
theorem step_slot_next {t : Transaction} {k : Nat} {s : State} {ms : List Move} (hx : s.xport = .slot t k)
    (hm : s.moves = .run :: ms) :
    ∃ u, step s = .next u ∧ u.moves = ms ∧ ((k < t.slots ∧ u.xport = .slot t (k + 1)) ∨ u.xport = .desel t) := by
  refine ⟨_, step_slot hx hm, ?_⟩
  by_cases hk : k < t.slots
  · obtain ⟨x, e, b, tr, c, d, hx', hu⟩ := slotStep_frame t k { s with moves := ms }
    rw [hu]
    exact ⟨rfl, hx'.imp_left (⟨hk, ·⟩)⟩
  · rw [slotStep_done (not_lt.mp hk)]
    exact ⟨rfl, .inr rfl⟩

/-- From T_SLOT(k), with at most `n` slots left, the frame is closed within `n + 2` steps. -/
theorem releasedWithin_of_slot {t : Transaction} {n k : Nat} {s : State} {ms : List Move} (hn : t.slots ≤ k + n)
    (hx : s.xport = .slot t k) (hm : s.moves = List.replicate (n + 2) .run ++ ms) : ReleasedWithin t (n + 2) s := by
  induction n generalizing k s with
  | zero =>
    obtain ⟨u, hs, hm', ⟨hk, -⟩ | hx'⟩ := step_slot_next hx hm
    · omega
    · exact (releasedWithin_of_desel hx' hm').of_step hs
  | succ n ih =>
    obtain ⟨u, hs, hm', ⟨-, hx'⟩ | hx'⟩ := step_slot_next hx hm
    · exact (ih (by omega) hx' hm').of_step hs
    · exact ((releasedWithin_of_desel hx' hm').of_step hs).mono (by omega)

/-- Settles O11, by induction on the slots left. -/
theorem releaseGuaranteed : Obligations.ReleaseGuaranteed := fun _ _ _ _ hx hm =>
  releasedWithin_of_slot (by omega) hx hm

/-- Settles O13: the run of a micro-step that is a transaction, from F1 to F5. -/
theorem microStepTransactionRuns : Obligations.MicroStepTransactionRuns := fun _ _ _ _ _ ht hlen hx hm hc =>
  run_micro_step ht hlen hx hm hc

/-! ### What a transaction leaves unchanged -/

/-- Before F6 a transaction leaves the controller's registers (40_transport.md R80). -/
theorem transact_before_return {c : Cfg} {t : Transaction} {s u : State} (h : transact c t s = .next u)
    (hx : s.xport ≠ .closed t) :
    u.idx = s.idx ∧ u.rxlen = s.rxlen ∧ u.rxbuf = s.rxbuf ∧ u.pc = s.pc ∧ u.phase = s.phase := by
  rcases transact_next h with ⟨-, -, rfl⟩ | ⟨k, -, rfl⟩ | ⟨-, rfl⟩ | ⟨hclosed, -⟩
  · exact ⟨rfl, rfl, rfl, rfl, rfl⟩
  · obtain ⟨_, _, _, _, _, _, -, hu⟩ := slotStep_frame t k s
    rw [hu]
    exact ⟨rfl, rfl, rfl, rfl, rfl⟩
  · exact ⟨rfl, rfl, rfl, rfl, rfl⟩
  · exact absurd hclosed hx

/-- F6 writes `PHASE` only where it aborts INIT (60_exceptions.md R155). -/
theorem finishFrame_phase {s u : State} (h : finishFrame s = .next u) :
    u.phase = s.phase ∨ (s.op = .init ∧ s.errf = true ∧ u.phase = .uninitialized ∧ u.pc = .idle) := by
  rcases finishFrame_next h with ⟨he, rfl⟩ | ⟨-, -, rfl⟩ | ⟨l, -, -, rfl⟩ | ⟨l, -, hp, rfl⟩ | ⟨l, -, hp, hr⟩
  · obtain ⟨tr, hu⟩ := raise_frame .transportError s
    rw [hu]
    by_cases ho : s.op = .init
    · exact .inr ⟨ho, he, if_pos ho, rfl⟩
    · exact .inl (if_neg ho)
  · exact .inl rfl
  · exact .inl rfl
  · obtain ⟨l', i, hu⟩ := sendReturn_frame (s := leaveFrame s) hp
    exact .inl (by rw [hu]; rfl)
  · obtain ⟨l', i, n, b, rfl⟩ := recvReturn_frame (s := leaveFrame s) hp hr
    exact .inl rfl

/-- Settles O15: the latches by what a transaction may write at all, `RDATA` by the one slot that writes it, the
controller's registers by the steps before F6 and by F6. -/
theorem transactionFrame : Obligations.TransactionFrame := by
  intro t s u h
  rw [exec_instr] at h
  refine ⟨?latches, fun hrd => ?rdata, transact_before_return h, ?phase⟩
  case latches =>
    obtain ⟨_, _, _, _, _, _, _, _, _, _, _, _, -, rfl⟩ := transact_frame h
    exact ⟨rfl, rfl, rfl, rfl, rfl, rfl, rfl, rfl, rfl, rfl⟩
  case rdata =>
    rcases transact_rdata h with hkeep | ⟨a, ht, -⟩
    · exact hkeep
    · exact absurd ht (hrd a)
  case phase =>
    by_cases hx : s.xport = .closed t
    · rw [transact_closed hx] at h
      exact finishFrame_phase h
    · obtain ⟨-, -, -, -, hphase⟩ := transact_before_return h hx
      exact .inl hphase

end Sys2Proof.Machine
end

section
/-!
PROOF. The trace stays legal (spec 40_transport.md R88) at every step: where the trace stands, as the transport's position
says, is kept by each step of the frame procedure and by each micro-step outside a frame.
-/

namespace Sys2Proof.Machine

/-! ### Legality at each position of the transport -/

theorem traceLegal_idle {s : State} (hx : s.xport = .idle) : TraceLegal s ↔ ∃ b, framing s.trace = .outside b := by
  simp [TraceLegal, hx]

theorem traceLegal_slot {s : State} {t : Transaction} {k : Nat} (hx : s.xport = .slot t k) :
    TraceLegal s ↔ k ≤ t.slots ∧ s.errf = false ∧ framing s.trace = .inside (slotEvents t k s.rdata) := by
  simp [TraceLegal, hx]

theorem traceLegal_desel {s : State} {t : Transaction} (hx : s.xport = .desel t) :
    TraceLegal s ↔ ∃ l, framing s.trace = .inside l ∧ legalFrame l = true ∧ s.errf = (l.head? == some .xfail) := by
  simp [TraceLegal, hx]

theorem traceLegal_closed {s : State} {t : Transaction} (hx : s.xport = .closed t) :
    TraceLegal s ↔ framing s.trace = .outside s.errf := by
  simp [TraceLegal, hx]

/-- Legality reads only the transport, `ERRF`, `RDATA`, and where the trace stands. -/
theorem TraceLegal.congr {s u : State} (h : TraceLegal s) (hx : u.xport = s.xport) (he : u.errf = s.errf)
    (hd : u.rdata = s.rdata) (hf : framing u.trace = framing s.trace) : TraceLegal u := by
  unfold TraceLegal at *
  rwa [hx, he, hd, hf]

/-! ### Outside a frame -/

/-- An event that may stand outside a frame at any time: a delay, an accepted command, a response other than
E_TRANSPORT (40_transport.md R88 (e), (g)). -/
def Event.FreeOutside (e : Event) : Prop := ∀ b, (Framing.outside b).after e = .outside b

/-- With the transport idle, a move that leaves it idle without an event keeps legality. -/
theorem TraceLegal.silent {s u : State} (h : TraceLegal s) (hx : s.xport = .idle) (hu : u.xport = .idle)
    (htr : u.trace = s.trace) : TraceLegal u := by
  obtain ⟨b, hb⟩ := (traceLegal_idle hx).mp h
  exact (traceLegal_idle hu).mpr ⟨b, by rw [htr, hb]⟩

/-- With the transport idle, an event that may stand outside a frame keeps legality. -/
theorem TraceLegal.event {s u : State} (h : TraceLegal s) (hx : s.xport = .idle) (hu : u.xport = .idle) {e : Event}
    (he : e.FreeOutside) (htr : u.trace = e :: s.trace) : TraceLegal u := by
  obtain ⟨b, hb⟩ := (traceLegal_idle hx).mp h
  exact (traceLegal_idle hu).mpr ⟨b, by rw [htr, framing, hb, he]⟩

/-- An interrupt may fall anywhere. -/
theorem Framing.after_irq (f : Framing) : f.after .irq = f := by
  cases f <;> rfl

/-- IRQ keeps legality, also in the middle of a frame. -/
theorem takeInterrupt_traceLegal {s : State} (h : TraceLegal s) : TraceLegal (takeInterrupt s) :=
  h.congr rfl rfl rfl (Framing.after_irq _)

/-! ### The slot events of a frame -/

/-- One more transmit slot is one more TX. -/
theorem slotEvents_transmit {t : Transaction} {k : Nat} {o : Byte} (ho : t.out[k]? = some o) (d : Byte) :
    slotEvents t (k + 1) d = .tx o :: slotEvents t k d := by
  obtain ⟨hk, rfl⟩ := List.getElem?_eq_some_iff.mp ho
  simp [slotEvents, List.take_add_one, List.getElem?_append, hk]

/-- A frame whose slots did not fail holds no XFAIL. -/
theorem xfail_notMem_slotEvents (t : Transaction) (k : Nat) (d : Byte) : Event.xfail ∉ slotEvents t k d := by
  intro h
  have hmem := List.mem_of_mem_take (List.mem_reverse.mp h)
  simp [List.mem_replicate] at hmem

theorem head?_slotEvents_ne_xfail (t : Transaction) (k : Nat) (d : Byte) :
    (slotEvents t k d).head? ≠ some .xfail := fun h =>
  xfail_notMem_slotEvents t k d (List.mem_of_head? h)

/-- Inside a frame whose slots did not fail, one more slot event is added to them (40_transport.md R88 (c)). -/
theorem addSlot_slotEvents (t : Transaction) (k : Nat) (d : Byte) (e : Event) :
    addSlot (slotEvents t k d) e = .inside (e :: slotEvents t k d) :=
  if_neg (head?_slotEvents_ne_xfail t k d)

/-- A frame with every slot is one of the three complete ones (40_transport.md R88 (d)). -/
theorem legalFrame_slotEvents (t : Transaction) (d : Byte) : legalFrame (slotEvents t t.slots d) = true := by
  cases t <;> rfl

/-- A frame may be cut short by a failure in any of its slots. -/
theorem legalFrame_xfail {t : Transaction} {k : Nat} (hk : k < t.slots) (d : Byte) :
    legalFrame (.xfail :: slotEvents t k d) = true := by
  cases t with
  | rst =>
    obtain rfl : k = 0 := Nat.lt_one_iff.mp hk
    rfl
  | rd a =>
    have hk : k < 3 := hk
    interval_cases k <;> rfl
  | wr a v =>
    have hk : k < 3 := hk
    interval_cases k <;> rfl

/-! ### The frame procedure -/

/-- F1 starts a frame. -/
theorem openFrame_traceLegal {t : Transaction} {s : State} (h : TraceLegal s) (hx : s.xport = .idle) :
    TraceLegal (openFrame t s) := by
  obtain ⟨b, hb⟩ := (traceLegal_idle hx).mp h
  exact (traceLegal_slot rfl).mpr ⟨Nat.zero_le _, rfl, by rw [openFrame_trace, framing, hb]; rfl⟩

/-- F2, F3 and F4: one more slot of the frame, its failure, or the end of a complete frame. -/
theorem slotStep_traceLegal {t : Transaction} {k : Nat} {s : State} (h : TraceLegal s) (hx : s.xport = .slot t k) :
    TraceLegal (slotStep t k s) := by
  obtain ⟨hk, he, hf⟩ := (traceLegal_slot hx).mp h
  rcases slotStep_cases t k s with ⟨o, b, s1, ho, hr, hu⟩ | ⟨a, b, s1, rfl, rfl, hr, hu⟩ | ⟨s1, hlt, hr, hu⟩ |
    ⟨hge, hu⟩ <;> rw [hu]
  · obtain ⟨_, _, rfl⟩ := xfer_frame hr
    have hlt : k < t.slots := (List.getElem?_eq_some_iff.mp ho).1.trans_le (Nat.le_add_right _ _)
    refine (traceLegal_slot rfl).mpr ⟨hlt, he, ?_⟩
    change (framing s.trace).after (.tx o) = .inside (slotEvents t (k + 1) s.rdata)
    rw [hf, slotEvents_transmit ho]
    exact addSlot_slotEvents t k s.rdata (.tx o)
  · obtain ⟨_, _, rfl⟩ := xfer_frame hr
    refine (traceLegal_slot rfl).mpr ⟨le_rfl, he, ?_⟩
    change (framing s.trace).after (.rx b) = .inside (.rx b :: slotEvents (.rd a) 2 s.rdata)
    rw [hf]
    exact addSlot_slotEvents (.rd a) 2 s.rdata (.rx b)
  · obtain ⟨_, _, rfl⟩ := xfer_frame hr
    refine (traceLegal_desel rfl).mpr ⟨.xfail :: slotEvents t k s.rdata, ?_, legalFrame_xfail hlt s.rdata, rfl⟩
    change (framing s.trace).after .xfail = _
    rw [hf]
    exact addSlot_slotEvents t k s.rdata .xfail
  · obtain rfl : k = t.slots := le_antisymm hk hge
    exact (traceLegal_desel rfl).mpr ⟨_, hf, legalFrame_slotEvents t s.rdata, by
      simp [he, head?_slotEvents_ne_xfail]⟩

/-- F5 closes a legal frame; `ERRF` tells whether it ended in XFAIL. -/
theorem closeFrame_traceLegal {t : Transaction} {s : State} (h : TraceLegal s) (hx : s.xport = .desel t) :
    TraceLegal (closeFrame t s) := by
  obtain ⟨l, hf, hl, he⟩ := (traceLegal_desel hx).mp h
  refine (traceLegal_closed rfl).mpr ?_
  rw [closeFrame_trace, closeFrame_errf, framing, hf, he]
  exact if_pos hl

/-- With a trace outside every frame, the abort procedure gives a response that may stand there: `b` tells whether the
last frame failed. -/
theorem raise_traceLegal {e : ErrorKind} {r : Response} {s : State} {b : Bool} (hf : framing s.trace = .outside b)
    (hr : e.reported = some r) (hb : (Framing.outside b).after (.rsp r) = .outside b) : TraceLegal (raise e s) := by
  have hrsp : framing (.rsp r :: s.trace) = .outside b := by rw [framing, hf, hb]
  cases hp : s.pc with
  | idle =>
    rw [raise_idle hp]
    exact (traceLegal_idle rfl).mpr ⟨b, hf⟩
  | init l =>
    rw [raise_init hp hr]
    exact (traceLegal_idle rfl).mpr ⟨b, hrsp⟩
  | send l =>
    rw [raise_send hp hr]
    exact (traceLegal_idle rfl).mpr ⟨b, hrsp⟩
  | recv l =>
    rw [raise_recv hp hr]
    exact (traceLegal_idle rfl).mpr ⟨b, hrsp⟩

/-- F6: E_TRANSPORT follows a failed frame, and a return shows nothing. -/
theorem finishFrame_traceLegal {t : Transaction} {s u : State} (h : TraceLegal s) (hx : s.xport = .closed t)
    (hu : finishFrame s = .next u) : TraceLegal u := by
  have hf : framing s.trace = .outside s.errf := (traceLegal_closed hx).mp h
  have hleave : TraceLegal (leaveFrame s) := (traceLegal_idle rfl).mpr ⟨s.errf, hf⟩
  rcases finishFrame_next hu with ⟨he, rfl⟩ | ⟨-, -, rfl⟩ | ⟨l, -, -, rfl⟩ | ⟨l, -, hp, rfl⟩ | ⟨l, -, hp, hr⟩
  · exact raise_traceLegal hf rfl (by rw [he]; rfl)
  · exact hleave
  · exact hleave.silent rfl rfl rfl
  · obtain ⟨l', i, hret⟩ := sendReturn_frame (s := leaveFrame s) hp
    rw [hret]
    exact hleave.silent rfl rfl rfl
  · obtain ⟨l', i, n, b, rfl⟩ := recvReturn_frame (s := leaveFrame s) hp hr
    exact hleave.silent rfl rfl rfl

/-- A transaction: F1, a slot, F5, F6. -/
theorem transact_traceLegal {c : Cfg} {t : Transaction} {s u : State} (h : TraceLegal s)
    (hu : transact c t s = .next u) : TraceLegal u := by
  rcases transact_next hu with ⟨hx, -, rfl⟩ | ⟨k, hx, rfl⟩ | ⟨hx, rfl⟩ | ⟨hx, hf⟩
  · exact openFrame_traceLegal h hx
  · exact slotStep_traceLegal h hx
  · exact closeFrame_traceLegal h hx
  · exact finishFrame_traceLegal h hx hf

/-! ### The micro-steps -/

/-- A micro-step of INIT starts a frame, or shows a delay or a response outside of it (41_initialize.md R104). -/
theorem initStep_traceLegal {c : Cfg} {l : InitLabel} {s u : State} (h : TraceLegal s) (hx : s.xport = .idle)
    (hu : initStep c l s = .next u) : TraceLegal u := by
  rcases initStep_next hu with ⟨t, -, rfl⟩ | ⟨-, rfl⟩ | ⟨v, -, -, rfl⟩ | ⟨-, -, rfl⟩ | ⟨j, -, -, rfl⟩ | ⟨-, -, rfl⟩ |
    ⟨-, rfl⟩
  · exact openFrame_traceLegal h hx
  · exact h.event hx hx (e := .dly Config.tSettleMs) (fun _ => rfl) rfl
  · exact h.silent hx hx rfl
  · obtain ⟨b, hb⟩ := (traceLegal_idle hx).mp h
    exact raise_traceLegal hb rfl rfl
  · exact h.silent hx hx rfl
  · exact h.silent hx hx rfl
  · exact h.event hx hx (e := .rsp .ok) (fun _ => rfl) rfl

/-- A micro-step of SEND starts a frame, or shows a delay or a response outside of it (42_send.md R118). -/
theorem sendStep_traceLegal {c : Cfg} {l : SendLabel} {s u : State} (h : TraceLegal s) (hx : s.xport = .idle)
    (hu : sendStep c l s = .next u) : TraceLegal u := by
  rcases sendStep_next hu with ⟨t, -, rfl⟩ | ⟨-, rfl⟩ | ⟨-, rfl⟩ | ⟨-, rfl⟩ | ⟨-, -, rfl⟩ | ⟨-, rfl⟩
  · exact openFrame_traceLegal (h.silent (u := sendPrepared l s) hx hx rfl) hx
  · exact h.silent hx hx rfl
  · exact h.silent hx hx rfl
  · exact h.event hx hx (e := .dly Config.tPollMs) (fun _ => rfl) rfl
  · exact h.silent hx hx rfl
  · exact h.event hx hx (e := .rsp .ok) (fun _ => rfl) rfl

/-- A micro-step of RECV starts a frame, or shows a response outside of it (43_recv_interrupt.md R136). -/
theorem recvStep_traceLegal {c : Cfg} {l : RecvLabel} {s u : State} (h : TraceLegal s) (hx : s.xport = .idle)
    (hu : recvStep c l s = .next u) : TraceLegal u := by
  rcases recvStep_next hu with ⟨t, -, rfl⟩ | ⟨-, -, rfl⟩ | ⟨-, -, rfl⟩ | ⟨-, rfl⟩ | ⟨-, -, rfl⟩ | ⟨-, -, rfl⟩ | ⟨-, rfl⟩
  · exact openFrame_traceLegal h hx
  · exact h.silent hx hx rfl
  · exact h.event hx hx (e := .rsp .noData) (fun _ => rfl) rfl
  · exact h.silent hx hx rfl
  · exact h.silent hx hx rfl
  · exact h.silent hx hx rfl
  · exact h.event hx hx (e := .rsp (frameResponse s)) (fun _ => rfl) rfl

/-! ### Every operation, every step -/

/-- Every operation keeps the trace legal; a command is accepted with the transport idle. -/
theorem exec_traceLegal (i : Instr) (s u : State) (h : TraceLegal s) (hu : exec i s = .next u) : TraceLegal u := by
  rcases exec_next hu with ⟨t, -, hu⟩ | ⟨r, -, hx, -, rfl⟩ | ⟨r, l, -, hx, -, hu⟩ | ⟨a, n, d, -, hx, -, -, -, rfl⟩ |
    ⟨a, n, d, l, -, hx, -, hu⟩ | ⟨a, -, hx, -, -, rfl⟩ | ⟨a, l, -, hx, -, hu⟩ | ⟨-, rfl⟩
  · exact transact_traceLegal h hu
  · exact h.event hx hx (e := .cmd (.init r)) (fun _ => rfl) rfl
  · exact initStep_traceLegal h hx hu
  · exact h.event hx hx (e := .cmd (.send a (payload n d))) (fun _ => rfl) rfl
  · exact sendStep_traceLegal h hx hu
  · exact h.event hx hx (e := .cmd (.recv a)) (fun _ => rfl) rfl
  · exact recvStep_traceLegal h hx hu
  · exact takeInterrupt_traceLegal h

/-- Settles O58, operation by operation, from the reset of the block on: what the transport's position says of the last
frame is part of the invariant. -/
theorem traceLegalityKept : Obligations.TraceLegalityKept := fun _ _ =>
  step_keeps reset_traceLegal (fun _ _ _ _ _ _ h => h.congr rfl rfl rfl rfl) exec_traceLegal

end Sys2Proof.Machine
end

section
/-!
PROOF. INIT one micro-step at a time (spec 41_initialize.md R95 to R104): the acceptance, the step at each label, and the
return from each transaction.
-/

namespace Sys2Proof.Machine

/-! ### What INIT and its transactions answer -/

/-- On an idle block INIT is accepted. -/
theorem exec_init_idle {s : State} (r : RateName) (hx : s.xport = .idle) (hp : s.pc = .idle) :
    exec (.init r) s = .next (acceptInit r s) := by
  simp [exec, execInit, runInit, hp, whenTransportIdle_idle _ hx]

/-- While INIT is in progress and no frame is open, INIT takes its micro-step. -/
theorem exec_init_step {s : State} {l : InitLabel} (r : RateName) (hx : s.xport = .idle) (hp : s.pc = .init l) :
    exec (.init r) s = initStep Config.cfg l s := by
  simp [exec, execInit, runInit, hp, whenTransportIdle_idle _ hx]

/-- INIT opens the frame of the label's transaction (41_initialize.md R104). -/
theorem exec_init_opens {s : State} {l : InitLabel} {t : Transaction} (r : RateName) (hx : s.xport = .idle)
    (hp : s.pc = .init l) (ht : initTransaction Config.cfg l s = some t) :
    exec (.init r) s = .next (opened t s) :=
  (exec_init_step r hx hp).trans (initStep_opens ht)

/-- A transaction whose frame is closed and did not fail returns to INIT, at the next label. -/
theorem exec_return_init (t : Transaction) (l : InitLabel) (s : State) :
    exec t.instr { s with pc := .init l, xport := .closed t, errf := false } =
      .next { s with pc := .init (initNext l), xport := .idle, errf := false } := by
  rw [exec_instr, transact_closed rfl]
  rfl

/-- I6(j) has the transaction of entry `j` of the setup list (41_initialize.md R100). -/
theorem initTransaction_setup {c : Cfg} {j : Nat} {w : Addr × Byte} (s : State) (h : c.openF.initSetup[j]? = some w) :
    initTransaction c (.i6 j) s = some (.wr w.1 w.2) := by
  simp [initTransaction, h]

/-- Past the last entry of the setup list I6 goes on to I7. -/
theorem initStep_setup_done {c : Cfg} {j : Nat} (s : State) (h : c.openF.initSetup.length ≤ j) :
    initStep c (.i6 j) s = .next (goto (.init .i7) s) := by
  simp [initStep, h]

/-- I11 goes on to I12 where the status byte shows normal mode (41_initialize.md R102). -/
theorem initStep_confirmed {c : Cfg} {s : State} (h : inNormalMode c s.rdata = true) :
    initStep c .i11 s = .next (goto (.init .i12) s) := by
  simp [initStep, h]

/-- I11 has the second mode request as its transaction where the status byte does not show normal mode. -/
theorem initTransaction_unconfirmed {c : Cfg} {s : State} (h : inNormalMode c s.rdata = false) :
    initTransaction c .i11 s = some (.wr c.aCtrl c.openF.modeReq) := by
  simp [initTransaction, h]

/-- I2 latches the triple of a key of the table (41_initialize.md R98). -/
theorem initStep_found {c : Cfg} {s : State} {v : Triple} (h : c.lookup s.rate = some v) :
    initStep c .i2 s = .next (goto (.init .i3) { s with cnfv := v }) := by
  simp [initStep, h]

/-- I2 raises UnknownBitRate for a name that is no key. -/
theorem initStep_unknown {c : Cfg} {s : State} (h : c.lookup s.rate = none) :
    initStep c .i2 s = .next (raise .unknownBitRate s) := by
  simp [initStep, h]

/-! ### The labels -/

/-- Settles O16: the acceptance of INIT. -/
theorem initAccepted : Obligations.InitAccepted := fun r _ => exec_init_idle r rfl rfl

/-- Settles O17: I0 opens the frame of RST, which returns to I1; I1 is the settle delay. -/
theorem initResetsAndSettles : Obligations.InitResetsAndSettles :=
  ⟨fun r _ => exec_init_opens r rfl rfl rfl, exec_return_init .rst .i0,
    fun r _ => (exec_init_step (l := .i1) r rfl rfl).trans rfl⟩

/-- Settles O18, by whether the name is a key of the table. -/
theorem initLooksUpTheRate : Obligations.InitLooksUpTheRate := by
  intro r s
  rw [exec_init_step r rfl rfl]
  cases h : Config.cfg.openF.rateTable.lookup s.rate with
  | some v => exact initStep_found (s := { s with pc := .init .i2, xport := .idle }) h
  | none =>
    rw [initStep_unknown (s := { s with pc := .init .i2, xport := .idle }) h, raise_init rfl rfl]

/-- Settles O19: the frames of I3, I4, I5, then their returns. -/
theorem initWritesBitTiming : Obligations.InitWritesBitTiming :=
  ⟨fun r _ => ⟨exec_init_opens r rfl rfl rfl, exec_init_opens r rfl rfl rfl, exec_init_opens r rfl rfl rfl⟩,
    fun a v s => ⟨exec_return_init (.wr a v) .i3 s, exec_return_init (.wr a v) .i4 s, exec_return_init (.wr a v) .i5 s⟩⟩

/-- Settles O20: the frame of an entry, the end of the list, the return to the next entry. -/
theorem initWritesSetup : Obligations.InitWritesSetup := by
  refine fun r j s => ⟨fun h => ?_, fun h => ?_, fun a v => exec_return_init (.wr a v) (.i6 j) s⟩
  · exact exec_init_opens r rfl rfl (initTransaction_setup _ (List.getElem?_eq_getElem h))
  · exact (exec_init_step r rfl rfl).trans (initStep_setup_done _ h)

/-- Settles O21: the frames of I7 to I10, I11 by its test of the status byte, then the returns. -/
theorem initArmsAndRequestsMode : Obligations.InitArmsAndRequestsMode := by
  refine ⟨fun r s => ⟨exec_init_opens r rfl rfl rfl, exec_init_opens r rfl rfl rfl, exec_init_opens r rfl rfl rfl,
    exec_init_opens r rfl rfl rfl, ?_⟩, fun a v s => ⟨exec_return_init (.wr a v) .i7 s, exec_return_init (.wr a v) .i8 s,
    exec_return_init (.wr a v) .i9 s, exec_return_init (.rd a) .i10 s, exec_return_init (.wr a v) .i11 s⟩⟩
  split
  · next h => exact (exec_init_step (l := .i11) r rfl rfl).trans (initStep_confirmed h)
  · next h => exact exec_init_opens r rfl rfl (initTransaction_unconfirmed (eq_false_of_ne_true h))

/-- Settles O22: the micro-step at I12. -/
theorem initCompletes : Obligations.InitCompletes := fun r _ =>
  (exec_init_step (l := .i12) r rfl rfl).trans rfl

end Sys2Proof.Machine
end

section
/-!
PROOF. What a step of INIT, SEND or RECV leaves unchanged (spec 41_initialize.md R95, 42_send.md R110,
43_recv_interrupt.md R125).
-/

namespace Sys2Proof.Machine

/-- A micro-step of RECV never sets `RXPEND` (43_recv_interrupt.md R126). -/
theorem recvStep_rxpend {c : Cfg} {l : RecvLabel} {s u : State} (h : recvStep c l s = .next u)
    (hu : u.rxpend = true) : s.rxpend = true := by
  rcases recvStep_next h with ⟨t, -, rfl⟩ | ⟨-, hset, rfl⟩ | ⟨-, -, rfl⟩ | ⟨-, rfl⟩ | ⟨-, -, rfl⟩ | ⟨-, -, rfl⟩ | ⟨-, rfl⟩
  case inr.inl => exact hset
  all_goals exact hu

/-- Settles O25, operation by operation: its acceptance, then what its micro-steps may write. -/
theorem controllerOperationFrames : Obligations.ControllerOperationFrames := by
  refine ⟨fun r s u h => ?init, fun a n d s u h => ?send, fun a s u h => ?recv⟩
  case init =>
    obtain ⟨-, ⟨-, rfl⟩ | ⟨l, -, hl⟩⟩ := runInit_next h
    · exact ⟨rfl, rfl, rfl, rfl, rfl, rfl, rfl, rfl, rfl, rfl, rfl, rfl, rfl, rfl⟩
    · obtain ⟨_, _, _, _, _, _, _, rfl⟩ := initStep_frame hl
      exact ⟨rfl, rfl, rfl, rfl, rfl, rfl, rfl, rfl, rfl, rfl, rfl, rfl, rfl, rfl⟩
  case send =>
    obtain ⟨-, ⟨-, -, -, rfl⟩ | ⟨l, -, hl⟩⟩ := runSend_next h
    · exact ⟨rfl, rfl, rfl, rfl, rfl, rfl, rfl, rfl, rfl, rfl, rfl, rfl, rfl⟩
    · obtain ⟨_, _, _, _, _, _, rfl⟩ := sendStep_frame hl
      exact ⟨rfl, rfl, rfl, rfl, rfl, rfl, rfl, rfl, rfl, rfl, rfl, rfl, rfl⟩
  case recv =>
    obtain ⟨-, ⟨-, -, rfl⟩ | ⟨l, -, hl⟩⟩ := runRecv_next h
    · exact ⟨rfl, id, rfl, rfl, rfl, rfl, rfl, rfl, rfl, rfl, rfl, rfl, rfl, rfl, rfl, rfl⟩
    · have hpend : u.rxpend = true → s.rxpend = true := recvStep_rxpend hl
      obtain ⟨_, _, _, _, _, _, rfl⟩ := recvStep_frame hl
      exact ⟨rfl, hpend, rfl, rfl, rfl, rfl, rfl, rfl, rfl, rfl, rfl, rfl, rfl, rfl, rfl, rfl⟩

end Sys2Proof.Machine
end

section
/-!
PROOF. Runs of the machine on a bus that does not fail, with no pin sample between the steps, as a relation that composes;
and what a frame and a micro-step of INIT are in it (spec 41_initialize.md R104).
-/

namespace Sys2Proof.Machine

/-! ### Runs that are served -/

/-- `n` turns of the normal context, in which the bus answers the bytes `bs`, take the block from `s` to `u`, whatever
moves and replies come after them. The moves and replies `s` and `u` themselves hold do not count. -/
def Served (n : Nat) (bs : List Byte) (s u : State) : Prop :=
  ∀ (ms : List Move) (rest : List Reply),
    Sys2Proof.core.run n { s with moves := List.replicate n .run ++ ms, chip := bs.map Reply.ok ++ rest } =
      .next { u with moves := ms, chip := rest }

/-- A served run of a state that holds those moves and replies. -/
theorem Served.run {n : Nat} {bs : List Byte} {s u : State} {ms : List Move} {rest : List Reply} (h : Served n bs s u)
    (hm : s.moves = List.replicate n .run ++ ms) (hc : s.chip = bs.map Reply.ok ++ rest) :
    Sys2Proof.core.run n s = .next { u with moves := ms, chip := rest } := by
  have hrun := h ms rest
  rw [← hm, ← hc] at hrun
  exact hrun

/-- Served runs compose. -/
theorem Served.trans {n m : Nat} {bs cs : List Byte} {s u w : State} (h : Served n bs s u) (h' : Served m cs u w) :
    Served (n + m) (bs ++ cs) s w := by
  intro ms rest
  have hrun := h (List.replicate m .run ++ ms) (cs.map Reply.ok ++ rest)
  rw [← List.append_assoc, List.replicate_append_replicate, ← List.append_assoc, ← List.map_append] at hrun
  rw [run_add n m _ _ hrun]
  exact h' ms rest

/-- A step without a byte slot. -/
theorem served_of_step {s u : State}
    (h : ∀ ms rest, step { s with moves := .run :: ms, chip := rest } = .next { u with moves := ms, chip := rest }) :
    Served 1 [] s u :=
  fun ms rest => run_one (h ms rest)

/-- A micro-step of INIT without a transaction. -/
theorem served_init_step {s u : State} {l : InitLabel} (hx : s.xport = .idle) (hp : s.pc = .init l)
    (h : ∀ ms rest,
      initStep Config.cfg l { s with moves := ms, chip := rest } = .next { u with moves := ms, chip := rest }) :
    Served 1 [] s u :=
  served_of_step fun ms rest =>
    (step_init (s := { s with moves := .run :: ms, chip := rest }) rfl hx hp).trans (h ms rest)

/-- INIT at label `l` with the transport at rest, between two micro-steps, with the trace `tr` so far. -/
def initAt (l : InitLabel) (tr : List Event) (s : State) : State :=
  { s with csN := .high, pc := .init l, xport := .idle, errf := false, trace := tr }

/-- A micro-step of INIT that is a transaction: the whole frame and the return to the next label. -/
theorem served_init_frame {s : State} {l : InitLabel} {t : Transaction} {bs : List Byte} (hx : s.xport = .idle)
    (hp : s.pc = .init l) (ht : initTransaction Config.cfg l s = some t) (hlen : bs.length = t.slots) :
    Served (t.slots + 4) bs s
      (initAt (initNext l) (frameEvents t (bs.getLastD 0) ++ s.trace)
        { s with rdata := rdataAfter t (bs.getLastD 0) s.rdata }) := by
  intro ms rest
  have hcur : currentTransaction Config.cfg s = some t := by simpa [currentTransaction, hp] using ht
  obtain ⟨hrun, -, -⟩ := transactionsRunToTheirEnd
  rw [hrun t bs { s with moves := List.replicate (t.slots + 4) .run ++ ms, chip := bs.map Reply.ok ++ rest } ms rest
    hcur hlen hx rfl rfl]
  change resume _ = .next _
  simp [resume, hp, initReturn, goto, initAt]

/-- The frame of RST shows nothing of the chip's answer. -/
theorem frameEvents_rst (d : Byte) : frameEvents .rst d = frameEvents .rst 0 := rfl

/-- The frame of a write shows nothing of the chip's answers. -/
theorem frameEvents_wr (a : Addr) (v d : Byte) : frameEvents (.wr a v) d = frameEvents (.wr a v) 0 := rfl

/-! ### The writes of INIT -/

/-- From label `l` on, INIT makes the register writes `ws`, one transaction each, and is then at `l'`. -/
inductive WritesFrom (s : State) : InitLabel → List (Addr × Byte) → InitLabel → Prop where
  /-- No write, and INIT stays where it is. -/
  | nil (l : InitLabel) : WritesFrom s l [] l
  /-- The label's transaction is the first write; the others are made from the next label on. -/
  | cons {l l' : InitLabel} {w : Addr × Byte} {ws : List (Addr × Byte)} :
    initTransaction Config.cfg l s = some (.wr w.1 w.2) → WritesFrom s (initNext l) ws l' → WritesFrom s l (w :: ws) l'

/-- One write of INIT as a served run. -/
theorem served_init_write {s : State} {l : InitLabel} {a : Addr} {v : Byte} {bs : List Byte} (tr : List Event)
    (ht : initTransaction Config.cfg l s = some (.wr a v)) (hlen : bs.length = 3) :
    Served 7 bs (initAt l tr s) (initAt (initNext l) (frameEvents (.wr a v) 0 ++ tr) s) := by
  have h := served_init_frame (s := initAt l tr s) rfl rfl ht hlen
  rw [frameEvents_wr] at h
  exact h

/-- The setup list is written from I6(0) on (41_initialize.md R100): after the entries `written`, those that are left. -/
theorem writesFrom_setup (s : State) {written ws : List (Addr × Byte)} (h : Config.cfg.openF.initSetup = written ++ ws) :
    WritesFrom s (.i6 written.length) ws (.i6 Config.cfg.openF.initSetup.length) := by
  induction ws generalizing written with
  | nil => simpa [h] using WritesFrom.nil (s := s) (.i6 written.length)
  | cons w ws ih =>
    have hw : Config.cfg.openF.initSetup[written.length]? = some w := by simp [h]
    have rest := ih (written := written ++ [w]) (by simp [h])
    rw [List.length_append] at rest
    exact .cons (initTransaction_setup s hw) rest

/-- The writes of INIT as a served run: their frames in order, seven steps each. -/
theorem served_writes {s : State} {l l' : InitLabel} {ws : List (Addr × Byte)} (h : WritesFrom s l ws l')
    {bs : List Byte} (tr : List Event) (hlen : bs.length = 3 * ws.length) :
    Served (7 * ws.length) bs (initAt l tr s) (initAt l' (writeFrames ws ++ tr) s) := by
  induction h generalizing bs tr with
  | nil l =>
    obtain rfl := List.length_eq_zero_iff.mp hlen
    exact fun ms rest => rfl
  | @cons l l' w ws ht _ ih =>
    rw [List.length_cons] at hlen
    have first := served_init_write (bs := bs.take 3) tr ht (by rw [List.length_take]; omega)
    have others := ih (bs := bs.drop 3) (frameEvents (.wr w.1 w.2) 0 ++ tr) (by rw [List.length_drop]; omega)
    rw [List.length_cons, Nat.mul_succ, Nat.add_comm, writeFrames, List.append_assoc, ← List.take_append_drop 3 bs]
    exact first.trans others

end Sys2Proof.Machine
end

section
/-!
PROOF. INIT as a whole run (spec 41_initialize.md R104), with a name of the table and with an unknown name
(95_test_vectors.md E1, E2): the stages of INIT, then their composition.
-/

namespace Sys2Proof.Machine

/-! ### The stages of INIT -/

/-- The trace of INIT up to the settle delay, newest event first, on a block with the trace `tr`. -/
def settledTrace (r : RateName) (tr : List Event) : List Event :=
  .dly Config.tSettleMs :: (frameEvents .rst 0 ++ .cmd (.init r) :: tr)

/-- From the command to I2: acceptance, the frame of RST, the settle delay (41_initialize.md R95 to R97). -/
theorem served_init_settled {s : State} {p : CmdPort} {ps : List CmdPort} (b : Byte) (hop : p.op = 0b00)
    (hp : s.pc = .idle) (hx : s.xport = .idle) (hq : s.port = p :: ps) :
    Served 7 [b] s
      (initAt .i2 (settledTrace p.rate s.trace) { s with port := ps, rate := p.rate, phase := .configuring }) := by
  have hd : decode (.command p) = .ok (.init p.rate) := decodeCommand_eq_ok_iff.mpr (.inl ⟨hop, rfl⟩)
  have accepted : Served 1 [] s (acceptInit p.rate { s with port := ps }) := served_of_step fun ms rest =>
    (step_command (s := { s with moves := .run :: ms, chip := rest }) rfl hx hp hq hd).trans (exec_init_idle _ hx hp)
  have reset := served_init_frame (s := acceptInit p.rate { s with port := ps }) (bs := [b]) hx rfl rfl rfl
  rw [frameEvents_rst] at reset
  have settled := served_init_step (l := .i1)
    (s := initAt .i1 (frameEvents .rst 0 ++ .cmd (.init p.rate) :: s.trace)
      { s with port := ps, rate := p.rate, phase := .uninitialized })
    (u := initAt .i2 (settledTrace p.rate s.trace) { s with port := ps, rate := p.rate, phase := .configuring })
    rfl rfl fun _ _ => rfl
  exact (accepted.trans reset).trans settled

/-- I2 with a key of the table (41_initialize.md R98). -/
theorem served_init_found {s : State} {v : Triple} (tr : List Event) (h : Config.cfg.lookup s.rate = some v) :
    Served 1 [] (initAt .i2 tr s) (initAt .i3 tr { s with cnfv := v }) :=
  served_init_step (l := .i2) rfl rfl fun ms rest =>
    initStep_found (s := { initAt .i2 tr s with moves := ms, chip := rest }) h

/-- I2 with a name that is no key (41_initialize.md R98, 60_exceptions.md R155). -/
theorem served_init_unknown {s : State} (tr : List Event) (h : Config.cfg.lookup s.rate = none) :
    Served 1 [] (initAt .i2 tr s)
      { initAt .i2 tr s with pc := .idle, phase := .uninitialized, trace := .rsp .eUnknownRate :: tr } :=
  served_init_step (l := .i2) rfl rfl fun ms rest =>
    (initStep_unknown (s := { initAt .i2 tr s with moves := ms, chip := rest }) h).trans
      (by rw [raise_init (l := .i2) rfl rfl]; rfl)

/-- The writes of I3 to I6: the triple, then the setup list (41_initialize.md R99, R100). -/
def timingAndSetup (c : Cfg) (v : Triple) : List (Addr × Byte) :=
  (c.aCnf1, v.c1) :: (c.aCnf2, v.c2) :: (c.aCnf3, v.c3) :: c.openF.initSetup

/-- The writes of I7 to I9: interrupt arming, then the mode request (41_initialize.md R101, R102). -/
def armingAndMode (c : Cfg) : List (Addr × Byte) :=
  [(c.aIntf, Config.intfClear), (c.aInte, Config.rx0ieVal), (c.aCtrl, c.openF.modeReq)]

/-- I3 to I6 make their writes. -/
theorem writesFrom_timingAndSetup (s : State) :
    WritesFrom s .i3 (timingAndSetup Config.cfg s.cnfv) (.i6 Config.cfg.openF.initSetup.length) :=
  .cons rfl (.cons rfl (.cons rfl (writesFrom_setup s (written := []) rfl)))

/-- I7 to I9 make their writes. -/
theorem writesFrom_armingAndMode (s : State) : WritesFrom s .i7 (armingAndMode Config.cfg) .i10 :=
  .cons rfl (.cons rfl (.cons rfl (.nil .i10)))

/-- After the last entry of the setup list I6 goes on to I7. -/
theorem served_init_setup_done (tr : List Event) (s : State) :
    Served 1 [] (initAt (.i6 Config.cfg.openF.initSetup.length) tr s) (initAt .i7 tr s) :=
  served_init_step rfl rfl fun _ _ => initStep_setup_done _ le_rfl

/-- I10 reads the status register (41_initialize.md R102). -/
theorem served_init_status (x y d : Byte) (tr : List Event) (s : State) :
    Served 7 [x, y, d] (initAt .i10 tr s)
      (initAt .i11 (frameEvents (.rd Config.cfg.aStat) d ++ tr) { s with rdata := d }) :=
  served_init_frame (s := initAt .i10 tr s) (t := .rd Config.cfg.aStat) rfl rfl rfl rfl

/-- The frame of I11: the second mode request, where the status byte does not show normal mode. -/
def reissueFrame (c : Cfg) (d : Byte) : List Event :=
  if inNormalMode c d then [] else frameEvents (.wr c.aCtrl c.openF.modeReq) 0

/-- I11 requests the mode again exactly when the status byte does not show normal mode (41_initialize.md R102). -/
theorem served_init_reissue {s : State} {bs : List Byte} (tr : List Event)
    (hlen : bs.length = if inNormalMode Config.cfg s.rdata then 0 else 3) :
    Served (if inNormalMode Config.cfg s.rdata then 1 else 7) bs (initAt .i11 tr s)
      (initAt .i12 (reissueFrame Config.cfg s.rdata ++ tr) s) := by
  cases h : inNormalMode Config.cfg s.rdata with
  | true =>
    obtain rfl : bs = [] := by simpa [h] using hlen
    simpa [reissueFrame, h] using served_init_step (l := .i11) (s := initAt .i11 tr s) (u := initAt .i12 tr s) rfl rfl
      fun ms rest => initStep_confirmed (s := { initAt .i11 tr s with moves := ms, chip := rest }) h
  | false =>
    simpa [reissueFrame, h, initNext] using
      served_init_write (bs := bs) tr (initTransaction_unconfirmed h) (by simpa [h] using hlen)

/-- The block after an INIT that is complete, with the trace `tr`. -/
def initDone (tr : List Event) (s : State) : State :=
  { s with phase := .normal, csN := .high, pc := .idle, xport := .idle, errf := false, trace := tr }

/-- I12 completes (41_initialize.md R103). -/
theorem served_init_complete (tr : List Event) (s : State) :
    Served 1 [] (initAt .i12 tr s) (initDone (.rsp .ok :: tr) s) :=
  served_init_step (l := .i12) rfl rfl fun _ _ => rfl

/-! ### The whole run -/

/-- The trace of R104 is the traces of the stages, newest first. -/
theorem initTrace_stages (c : Cfg) (v : Triple) (d : Byte) (r : RateName) (tr : List Event) :
    .rsp .ok :: (reissueFrame c d ++ (frameEvents (.rd c.aStat) d ++ (writeFrames (armingAndMode c) ++
      (writeFrames (timingAndSetup c v) ++ settledTrace r tr)))) = initTrace c v d ++ .cmd (.init r) :: tr := by
  simp [initTrace, reissueFrame, armingAndMode, timingAndSetup, writeFrames, settledTrace]

/-- INIT from I3 on (41_initialize.md R99 to R103): `w1` and `w2` answer the writes before and after the end of the setup
list, the status read answers `d`, and `w3` answers the second mode request, if there is one. -/
theorem served_init_from_i3 {s : State} {w1 w2 w3 : List Byte} (x y d : Byte) (tr : List Event)
    (h1 : w1.length = 3 * (timingAndSetup Config.cfg s.cnfv).length)
    (h2 : w2.length = 3 * (armingAndMode Config.cfg).length)
    (h3 : w3.length = if inNormalMode Config.cfg d then 0 else 3) :
    Served (51 + 7 * Config.cfg.openF.initSetup.length + if inNormalMode Config.cfg d then 1 else 7)
      (w1 ++ w2 ++ [x, y, d] ++ w3) (initAt .i3 tr s)
      (initDone (.rsp .ok :: (reissueFrame Config.cfg d ++ (frameEvents (.rd Config.cfg.aStat) d ++
        (writeFrames (armingAndMode Config.cfg) ++ (writeFrames (timingAndSetup Config.cfg s.cnfv) ++ tr)))))
        { s with rdata := d }) := by
  have written := (served_writes (writesFrom_timingAndSetup s) tr h1).trans (served_init_setup_done _ s)
  have requested := written.trans (served_writes (writesFrom_armingAndMode s) _ h2)
  have confirmed := (requested.trans (served_init_status x y d _ s)).trans
    (served_init_reissue (s := { s with rdata := d }) _ h3)
  convert confirmed.trans (served_init_complete _ _) using 1
  · simp only [timingAndSetup, armingAndMode, List.length_cons, List.length_nil]
    omega
  · simp

/-- A list whose length is a sum splits into lists of the two lengths. -/
theorem exists_append_of_length {α : Type} {l : List α} {m n : Nat} (h : l.length = m + n) :
    ∃ xs ys, l = xs ++ ys ∧ xs.length = m ∧ ys.length = n :=
  ⟨l.take m, l.drop m, by simp, by simp [h], by simp [h]⟩

/-- Settles O23: up to the settle delay, then the failed lookup. -/
theorem unknownRateRun : Obligations.UnknownRateRun := by
  intro p b s ps ms rest hv hop hp hx hq hm hc
  have failed := (served_init_settled b hop hp hx hq).trans (served_init_unknown _ hv)
  refine (failed.run hm hc).trans ?_
  rw [hp, hx]
  rfl

/-- The answers of the bus, cut where the stages of INIT use them up; the last answer to the status read is the one
counted from the start. -/
theorem init_answers_cut {bs : List Byte} {n k : Nat} {d : Byte} (hlen : bs.length = 1 + 3 * (7 + n + k))
    (hd : bs.getD (3 + 3 * (6 + n)) 0 = d) :
    ∃ b w1 w2 x y w3, bs = [b] ++ (w1 ++ w2 ++ [x, y, d] ++ w3) ∧ w1.length = 3 * (n + 3) ∧ w2.length = 9 ∧
      w3.length = 3 * k := by
  have hsum : bs.length = 1 + (3 * (n + 3) + (9 + (3 + 3 * k))) := by omega
  obtain ⟨bs0, _, rfl, h0, hsum⟩ := exists_append_of_length hsum
  obtain ⟨w1, _, rfl, h1, hsum⟩ := exists_append_of_length hsum
  obtain ⟨w2, _, rfl, h2, hsum⟩ := exists_append_of_length hsum
  obtain ⟨read, w3, rfl, hread, h3⟩ := exists_append_of_length hsum
  obtain ⟨b, rfl⟩ := List.length_eq_one_iff.mp h0
  obtain ⟨x, y, z, rfl⟩ := List.length_eq_three.mp hread
  have index : 3 + 3 * (6 + n) = ([b] ++ w1 ++ w2 ++ [x, y]).length := by simp [h1, h2]; omega
  obtain rfl : z = d := by
    rw [← hd, index, show [b] ++ (w1 ++ (w2 ++ ([x, y, z] ++ w3))) = ([b] ++ w1 ++ w2 ++ [x, y]) ++ z :: w3 by simp]
    simp
  exact ⟨b, w1, w2, x, y, w3, by simp, h1, h2, h3⟩

/-- Settles O24: up to the settle delay, the lookup, and INIT from I3 on. -/
theorem initRun : Obligations.InitRun := by
  intro p v bs d s ps ms rest hv hop hp hx hq hlen hd hm hc
  obtain ⟨b, w1, w2, x, y, w3, rfl, h1, h2, h3⟩ := init_answers_cut hlen hd
  have configuring := (served_init_settled b hop hp hx hq).trans (served_init_found _ hv)
  have completed := configuring.trans (served_init_from_i3 x y d _ h1 h2 (by rw [h3]; split <;> rfl))
  have steps : 7 + 1 + (51 + 7 * Config.cfg.openF.initSetup.length + if inNormalMode Config.cfg d then 1 else 7) =
      initSteps Config.cfg.openF.initSetup.length (inNormalMode Config.cfg d) := by
    unfold initSteps
    omega
  rw [steps] at completed
  exact ⟨_, completed.run hm hc, rfl, rfl, rfl, rfl, rfl, rfl, rfl, rfl, rfl, initTrace_stages _ _ _ _ _⟩

end Sys2Proof.Machine
end

section
/-!
PROOF. SEND one micro-step at a time (spec 42_send.md R110 to R118): the acceptance, the step at each label, and the
return from each transaction.
-/

namespace Sys2Proof.Machine

/-! ### What SEND and its transactions answer -/

/-- On an idle block in Normal, SEND of at most eight bytes is accepted. -/
theorem exec_send_idle {s : State} {n : BitVec 4} (i : BitVec 11) (d : Buf) (hn : n.toNat ≤ 8) (hx : s.xport = .idle)
    (hp : s.pc = .idle) (hph : s.phase = .normal) : exec (.send i n d) s = .next (acceptSend i n d s) := by
  simp [exec, execSend, runSend, hp, whenTransportIdle_idle _ hx, admitSend, hph, Config.maxLen, hn]

/-- While SEND is in progress and no frame is open, SEND takes its micro-step. -/
theorem exec_send_step {s : State} (l : SendLabel) (i : BitVec 11) (n : BitVec 4) (d : Buf) (hx : s.xport = .idle)
    (hp : s.pc = .send l) : exec (.send i n d) s = sendStep Config.cfg l s := by
  simp [exec, execSend, runSend, hp, whenTransportIdle_idle _ hx]

/-- SEND opens the frame of the label's transaction (42_send.md R118). -/
theorem exec_send_opens {s : State} {t : Transaction} (l : SendLabel) (i : BitVec 11) (n : BitVec 4) (d : Buf)
    (hx : s.xport = .idle) (hp : s.pc = .send l) (ht : sendTransaction Config.cfg l s = some t) :
    exec (.send i n d) s = .next (opened t (sendPrepared l s)) :=
  (exec_send_step l i n d hx hp).trans (sendStep_opens ht)

/-- A transaction whose frame is closed and did not fail returns to SEND. -/
theorem exec_return_send (t : Transaction) (l : SendLabel) (s : State) :
    exec t.instr { s with pc := .send l, xport := .closed t, errf := false } =
      .next (sendReturn l { s with pc := .send l, xport := .idle, errf := false }) := by
  rw [exec_instr, transact_closed rfl]
  rfl

/-- S2 goes by the transmit-request bit of the byte read (42_send.md R111). -/
theorem sendStep_test (c : Cfg) (s : State) :
    sendStep c .s2 s = .next (goto (.send (if busy c s.rdata then .s3 else .s4)) s) := by
  cases h : busy c s.rdata <;> simp [sendStep, h]

/-- S9 has the write of byte `IDX` as its transaction while there is one to write (42_send.md R116). -/
theorem sendTransaction_data {c : Cfg} {s : State} {b : Byte} (hi : s.idx.toNat < s.len.toNat)
    (hb : bufGet s.txbuf s.idx.toNat = some b) :
    sendTransaction c .s9 s = some (.wr (dataAddr c.aTxd0 s.idx) b) := by
  simp [sendTransaction, hi, hb]

/-- With no byte to write S9 goes on to S10. -/
theorem sendStep_data_done {c : Cfg} {s : State} (h : s.len.toNat ≤ s.idx.toNat) :
    sendStep c .s9 s = .next (goto (.send .s10) s) := by
  simp [sendStep, Nat.not_lt.mpr h]

/-! ### The labels -/

/-- Settles O26: the acceptance of SEND latches the bytes below the length and keeps the others. -/
theorem sendAccepted : Obligations.SendAccepted := fun i n d s hn =>
  ⟨bufLatch n.toNat d s.txbuf, exec_send_idle i d hn rfl rfl rfl, fun k _ => bufLatch_get n.toNat d s.txbuf k⟩

/-- Settles O28: S1 opens the frame of the poll, which returns to S2; S2 goes by the bit read; S0 and S3 by definition. -/
theorem sendPolls : Obligations.SendPolls := by
  refine fun i n d a s => ⟨exec_send_step .s0 i n d rfl rfl, exec_send_opens .s1 i n d rfl rfl rfl,
    exec_return_send (.rd a) .s1 s, ?test, (exec_send_step .s3 i n d rfl rfl).trans rfl⟩
  rw [exec_send_step .s2 i n d rfl rfl, sendStep_test]
  by_cases h : s.rdata &&& Config.cfg.txreq = 0 <;> simp [busy, h, goto]

/-- Settles O30: the frames of S4 to S8, the identifier in its two parts, then the returns. -/
theorem sendLoadsHeader : Obligations.SendLoadsHeader := by
  refine ⟨fun i n d s => ⟨?high, ?low, exec_send_opens .s6 i n d rfl rfl rfl, exec_send_opens .s7 i n d rfl rfl rfl,
    exec_send_opens .s8 i n d rfl rfl rfl⟩, fun a v s => ⟨exec_return_send (.wr a v) .s4 s,
    exec_return_send (.wr a v) .s5 s, exec_return_send (.wr a v) .s6 s, exec_return_send (.wr a v) .s7 s,
    exec_return_send (.wr a v) .s8 s⟩⟩
  case high =>
    rw [← sidh_eq_extract]
    exact exec_send_opens .s4 i n d rfl rfl rfl
  case low =>
    rw [← sidl_eq_extract_append]
    exact exec_send_opens .s5 i n d rfl rfl rfl

/-- Settles O31: the frame of a byte, no byte left, and the return, where `IDX` does not wrap. -/
theorem sendWritesData : Obligations.SendWritesData := by
  refine ⟨fun i n d b s hi hb => ?_, fun i n d s h => (exec_send_step .s9 i n d rfl rfl).trans (sendStep_data_done h),
    fun a v s hi => ?_⟩
  · exact exec_send_opens .s9 i n d rfl rfl
      (sendTransaction_data (s := { s with pc := .send .s9, xport := .idle }) hi hb)
  · rw [← toNat_add_one_of_lt hi (by decide)]
    exact exec_return_send (.wr a v) .s9 s

/-- Settles O32: the frame of S10 and its return, then the completion at S11. -/
theorem sendStartsAndCompletes : Obligations.SendStartsAndCompletes := fun i n d a v s =>
  ⟨exec_send_opens .s10 i n d rfl rfl rfl, exec_return_send (.wr a v) .s10 s,
    (exec_send_step .s11 i n d rfl rfl).trans rfl⟩

end Sys2Proof.Machine
end

section
/-!
PROOF. SEND on a bus that does not fail, with no pin sample between the steps: what a micro-step, a frame and a busy poll
are as served runs (spec 42_send.md R118), and the poll loop (R111, R112, 95_test_vectors.md E4).
-/

namespace Sys2Proof.Machine

/-! ### Micro-steps and frames -/

/-- SEND at label `l` with the transport at rest, between two micro-steps, with the trace `tr` so far. -/
def sendAt (l : SendLabel) (tr : List Event) (s : State) : State :=
  { s with csN := .high, pc := .send l, xport := .idle, errf := false, trace := tr }

/-- A micro-step of SEND without a transaction. -/
theorem served_send_step {s u : State} {l : SendLabel} (hx : s.xport = .idle) (hp : s.pc = .send l)
    (h : ∀ ms rest,
      sendStep Config.cfg l { s with moves := ms, chip := rest } = .next { u with moves := ms, chip := rest }) :
    Served 1 [] s u :=
  served_of_step fun ms rest =>
    (step_send (s := { s with moves := .run :: ms, chip := rest }) rfl hx hp).trans (h ms rest)

/-- The return to SEND does not touch what the environment holds. -/
theorem sendReturn_environment (l : SendLabel) (ms : List Move) (rest : List Reply) (s : State) :
    sendReturn l { s with moves := ms, chip := rest } = { sendReturn l s with moves := ms, chip := rest } := by
  cases l <;> rfl

/-- A micro-step of SEND that is a transaction: the whole frame and the return to SEND. -/
theorem served_send_frame {s : State} {l : SendLabel} {t : Transaction} {bs : List Byte} (hx : s.xport = .idle)
    (hp : s.pc = .send l) (ht : sendTransaction Config.cfg l s = some t) (hlen : bs.length = t.slots) :
    Served (t.slots + 4) bs s
      (sendReturn l (sendAt l (frameEvents t (bs.getLastD 0) ++ s.trace)
        { sendPrepared l s with rdata := rdataAfter t (bs.getLastD 0) s.rdata })) := by
  intro ms rest
  have hcur : currentTransaction Config.cfg s = some t := by simpa [currentTransaction, hp] using ht
  obtain ⟨hrun, -, -⟩ := transactionsRunToTheirEnd
  rw [hrun t bs { s with moves := List.replicate (t.slots + 4) .run ++ ms, chip := bs.map Reply.ok ++ rest } ms rest
    hcur hlen hx rfl rfl]
  change resume _ = .next _
  rw [← sendReturn_environment]
  simp [resume, hp, sendAt, sendPrepared]

/-- S1 reads the transmit-control register (42_send.md R111). -/
theorem served_send_read {s : State} (x y d : Byte) (hx : s.xport = .idle) (hp : s.pc = .send .s1) :
    Served 7 [x, y, d] s
      (sendAt .s2 (frameEvents (.rd Config.cfg.aTxctrl) d ++ s.trace) { s with cnt := s.cnt + 1, rdata := d }) :=
  served_send_frame (t := .rd Config.cfg.aTxctrl) hx hp rfl rfl

/-- S2 goes by the transmit-request bit of the byte read (42_send.md R111). -/
theorem served_send_test (tr : List Event) (s : State) :
    Served 1 [] (sendAt .s2 tr s) (sendAt (if busy Config.cfg s.rdata then .s3 else .s4) tr s) :=
  served_send_step rfl rfl fun _ _ => sendStep_test _ _

/-! ### The poll loop -/

/-- SEND after one busy poll that answered `d`: the read, the test and the delay (42_send.md R111). -/
def pollDone (d : Byte) (s : State) : State :=
  sendAt (if (s.cnt + 1).toNat < Config.nPoll then .s1 else .s4)
    (.dly Config.tPollMs :: (frameEvents (.rd Config.cfg.aTxctrl) d ++ s.trace)) { s with cnt := s.cnt + 1, rdata := d }

/-- One busy poll as a served run. -/
theorem served_busy_poll {s : State} {d : Byte} (x y : Byte) (hx : s.xport = .idle) (hp : s.pc = .send .s1)
    (hb : busy Config.cfg d = true) : Served 9 [x, y, d] s (pollDone d s) := by
  have tested := (served_send_read x y d hx hp).trans (served_send_test _ _)
  rw [if_pos hb] at tested
  exact tested.trans (served_send_step rfl rfl fun _ _ => rfl)

/-- The last busy poll of a loop is the newest in its trace. -/
theorem pollTrace_append (c : Cfg) (ds : List Byte) (d : Byte) :
    pollTrace c (ds ++ [d]) = .dly Config.tPollMs :: (frameEvents (.rd c.aTxctrl) d ++ pollTrace c ds) := by
  induction ds with
  | nil => simp [pollTrace]
  | cons e ds ih => simp [pollTrace, ih]

/-- `u` is the block after busy polls that answered `ds`, in a SEND whose poll began in `s` (42_send.md R111). -/
structure Polled (s : State) (ds : List Byte) (u : State) : Prop where
  pc : u.pc = .send (if ds.length < 50 then .s1 else .s4)
  xport : u.xport = .idle
  cnt : u.cnt.toNat = ds.length
  phase : u.phase = s.phase
  rxpend : u.rxpend = s.rxpend
  trace : u.trace = pollTrace Config.cfg ds ++ s.trace

/-- With polls left in the budget the loop is at S1 again. -/
theorem Polled.pc_s1 {s u : State} {ds : List Byte} (h : Polled s ds u) (hlen : ds.length < 50) : u.pc = .send .s1 := by
  rw [h.pc, if_pos hlen]

/-- One more busy poll. -/
theorem Polled.append {s u : State} {ds : List Byte} (h : Polled s ds u) (hlen : ds.length < 50) (d : Byte) :
    Polled s (ds ++ [d]) (pollDone d u) := by
  have counted : (u.cnt + 1).toNat = (ds ++ [d]).length := by
    rw [toNat_add_one_of_lt (h.cnt.trans_lt hlen) (by decide), h.cnt, List.length_append, List.length_singleton]
  exact {
    pc := by rw [← counted]; rfl
    xport := rfl
    cnt := counted
    phase := h.phase
    rxpend := h.rxpend
    trace := by rw [pollTrace_append, List.cons_append, List.append_assoc, ← h.trace]; rfl }

/-- The three answers of the bus to one poll, in order. -/
def pollAnswers (b : Byte × Byte × Byte) : List Byte := [b.1, b.2.1, b.2.2]

/-- Busy polls up to the budget as a served run: nine steps each. -/
theorem served_busy_polls {s : State} {bs : List (Byte × Byte × Byte)} (hlen : bs.length ≤ 50)
    (hb : ∀ b ∈ bs, busy Config.cfg b.2.2 = true) (hp : s.pc = .send .s1) (hx : s.xport = .idle) (hcnt : s.cnt = 0) :
    ∃ u, Served (9 * bs.length) (bs.flatMap pollAnswers) s u ∧ Polled s (bs.map fun b => b.2.2) u := by
  induction bs using List.reverseRecOn with
  | nil => exact ⟨s, fun ms rest => rfl, hp, hx, by simp [hcnt], rfl, rfl, rfl⟩
  | append_singleton bs b ih =>
    rw [List.length_append, List.length_singleton] at hlen
    obtain ⟨u, served, polled⟩ := ih (by omega) fun b' h' => hb b' (List.mem_append_left _ h')
    have left : (bs.map fun b => b.2.2).length < 50 := by rw [List.length_map]; omega
    have poll := served_busy_poll b.1 b.2.1 polled.xport (polled.pc_s1 left) (hb b (by simp))
    refine ⟨pollDone b.2.2 u, ?_, ?_⟩
    · rw [List.length_append, List.flatMap_append]
      exact served.trans (by simpa [pollAnswers] using poll)
    · rw [List.map_append]
      exact polled.append left b.2.2

/-- Settles O29: the poll loop, from its start. -/
theorem pollBudgetRun : Obligations.PollBudgetRun := by
  rintro n bs s ms rest hn rfl hb hp hx hcnt hm hc
  obtain ⟨u, served, polled⟩ := served_busy_polls hn hb hp hx hcnt
  have answers : s.chip = (bs.flatMap pollAnswers).map Reply.ok ++ rest := by rw [hc, List.map_flatMap]; rfl
  have length : (bs.map fun b => b.2.2).length = bs.length := List.length_map _
  exact ⟨_, served.run hm answers, by rw [← length]; exact polled.pc, polled.xport, polled.cnt.trans length, rfl, rfl,
    polled.phase, polled.rxpend, polled.trace⟩

end Sys2Proof.Machine
end

section
/-!
PROOF. SEND as a whole run with the first poll free (spec 42_send.md R118, 95_test_vectors.md E3): its register writes as a
list, then the stages of SEND and their composition.
-/

namespace Sys2Proof.Machine

/-! ### The writes of SEND -/

/-- From label `l` in `s` on, SEND makes the register writes `ws`, one transaction each, and is then at `l'` in `u`. -/
inductive SendWrites : SendLabel → State → List (Addr × Byte) → SendLabel → State → Prop where
  /-- No write, and SEND stays where it is. -/
  | nil (l : SendLabel) (s : State) : SendWrites l s [] l s
  /-- The label's transaction is the first write; the others are made from where it returns to. -/
  | cons {l l1 l' : SendLabel} {s s1 u : State} {w : Addr × Byte} {ws : List (Addr × Byte)} :
    sendTransaction Config.cfg l s = some (.wr w.1 w.2) →
      (∀ tr, sendReturn l (sendAt l tr s) = sendAt l1 tr s1) → SendWrites l1 s1 ws l' u → SendWrites l s (w :: ws) l' u

/-- S1 does not write. -/
theorem sendPrepared_of_wr {c : Cfg} {l : SendLabel} {s : State} {a : Addr} {v : Byte}
    (h : sendTransaction c l s = some (.wr a v)) : sendPrepared l s = s := by
  have notPoll : l ≠ .s1 := by rintro rfl; cases h
  rw [sendPrepared, if_neg notPoll]

/-- One write of SEND as a served run. -/
theorem served_send_write {s : State} {l : SendLabel} {a : Addr} {v : Byte} {bs : List Byte} (tr : List Event)
    (ht : sendTransaction Config.cfg l s = some (.wr a v)) (hlen : bs.length = 3) :
    Served 7 bs (sendAt l tr s) (sendReturn l (sendAt l (frameEvents (.wr a v) 0 ++ tr) s)) := by
  have ht' : sendTransaction Config.cfg l (sendAt l tr s) = some (.wr a v) := ht
  have h := served_send_frame (s := sendAt l tr s) rfl rfl ht' hlen
  rw [frameEvents_wr, sendPrepared_of_wr ht'] at h
  exact h

/-- The writes of SEND as a served run: their frames in order, seven steps each. -/
theorem served_send_writes {s u : State} {l l' : SendLabel} {ws : List (Addr × Byte)} (h : SendWrites l s ws l' u)
    {bs : List Byte} (tr : List Event) (hlen : bs.length = 3 * ws.length) :
    Served (7 * ws.length) bs (sendAt l tr s) (sendAt l' (writeFrames ws ++ tr) u) := by
  induction h generalizing bs tr with
  | nil l s =>
    obtain rfl := List.length_eq_zero_iff.mp hlen
    exact fun ms rest => rfl
  | @cons l l1 l' s s1 u w ws ht hret _ ih =>
    rw [List.length_cons] at hlen
    have first := served_send_write (bs := bs.take 3) tr ht (by rw [List.length_take]; omega)
    have others := ih (bs := bs.drop 3) (frameEvents (.wr w.1 w.2) 0 ++ tr) (by rw [List.length_drop]; omega)
    rw [hret] at first
    rw [List.length_cons, Nat.mul_succ, Nat.add_comm, writeFrames, List.append_assoc, ← List.take_append_drop 3 bs]
    exact first.trans others

/-- The writes of S4 to S8: identifier, extended identifier, length (42_send.md R113 to R115). -/
def headerWrites (c : Cfg) (i : BitVec 11) (n : BitVec 4) : List (Addr × Byte) :=
  [(c.aTxsidh, sidh i), (c.aTxsidl, sidl i), (c.aTxeid8, 0x00), (c.aTxeid0, 0x00), (c.aTxdlc, dlc n)]

/-- The writes of S9: the bytes `bs` to the addresses from `a` on (42_send.md R116). -/
def dataWrites (a : Addr) : List Byte → List (Addr × Byte)
  | [] => []
  | b :: bs => (a, b) :: dataWrites (a + 1) bs

/-- The writes of S9 are one for each byte. -/
theorem dataWrites_length (a : Addr) (bs : List Byte) : (dataWrites a bs).length = bs.length := by
  induction bs generalizing a with
  | nil => rfl
  | cons b bs ih => rw [dataWrites, List.length_cons, ih, List.length_cons]

/-- The frames of the writes of S9. -/
theorem writeFrames_dataWrites (a : Addr) (bs : List Byte) : writeFrames (dataWrites a bs) = dataFrames a bs := by
  induction bs generalizing a with
  | nil => rfl
  | cons b bs ih => rw [dataWrites, writeFrames, ih, dataFrames]

/-- S4 to S8 make their writes, and `IDX` is cleared. -/
theorem sendWrites_header (s : State) :
    SendWrites .s4 s (headerWrites Config.cfg s.id s.len) .s9 { s with idx := 0 } :=
  .cons rfl (fun _ => rfl) (.cons rfl (fun _ => rfl) (.cons rfl (fun _ => rfl) (.cons rfl (fun _ => rfl)
    (.cons rfl (fun _ => rfl) (.nil _ _)))))

/-- S10 makes the start write. -/
theorem sendWrites_start (s : State) : SendWrites .s10 s [(Config.cfg.aTxctrl, Config.cfg.txreq)] .s11 s :=
  .cons rfl (fun _ => rfl) (.nil _ _)

/-! ### The payload -/

/-- A payload has as many bytes as its length says, up to eight. -/
theorem payload_length {n : BitVec 4} (d : Buf) (hn : n.toNat ≤ 8) : (payload n d).length = n.toNat := by
  rw [payload, List.length_take]
  exact min_eq_left hn

/-- Byte `k` of a payload is byte `k` of its buffer, below the length. -/
theorem payload_getElem? (n : BitVec 4) (d : Buf) (k : Nat) :
    (payload n d)[k]? = if k < n.toNat then bufGet d k else none := by
  rw [payload, List.getElem?_take, bufList_getElem?]

/-- The payload read back from the latch is the one the command carried (10_state.md R27). -/
theorem payload_bufLatch (n : BitVec 4) (d old : Buf) : payload n (bufLatch n.toNat d old) = payload n d := by
  refine List.ext_getElem? fun k => ?_
  rw [payload_getElem?, payload_getElem?, bufLatch_get]
  split <;> rfl

/-- The first data register (42_send.md R116). -/
theorem dataAddr_zero (base : Addr) : dataAddr base 0 = base := BitVec.add_zero base

/-- The next data register (42_send.md R116). -/
theorem dataAddr_succ {i : BitVec 4} (base : Addr) (hi : i.toNat < 8) : dataAddr base (i + 1) = dataAddr base i + 1 := by
  have next : (i + 1).setWidth 8 = i.setWidth 8 + 1 := by
    apply BitVec.eq_of_toNat_eq
    rw [BitVec.toNat_setWidth, toNat_add_one_of_lt hi (by decide), BitVec.toNat_add, BitVec.toNat_setWidth]
    simp
  rw [dataAddr, dataAddr, next, BitVec.add_assoc]

/-- Where a payload begins with `b` from byte `k` on, `b` is byte `k` of the buffer, and the rest begins at the next. -/
theorem payload_drop_eq_cons {n : BitVec 4} {d : Buf} {k : Nat} {b : Byte} {bs : List Byte}
    (h : (payload n d).drop k = b :: bs) : k < n.toNat ∧ bufGet d k = some b ∧ (payload n d).drop (k + 1) = bs := by
  have byte : (payload n d)[k]? = some b := by rw [← List.head?_drop, h, List.head?_cons]
  rw [payload_getElem?] at byte
  split at byte
  · next hk => exact ⟨hk, byte, by rw [← List.tail_drop, h, List.tail_cons]⟩
  · cases byte

/-- While bytes `bs` of the payload are left, S9 writes them in ascending order and goes on to S10 (42_send.md R116). -/
theorem sendWrites_data {s : State} {bs : List Byte} (hlen : s.len.toNat ≤ 8) (hne : bs ≠ [])
    (hbs : (payload s.len s.txbuf).drop s.idx.toNat = bs) :
    SendWrites .s9 s (dataWrites (dataAddr Config.cfg.aTxd0 s.idx) bs) .s10 { s with idx := s.len } := by
  induction bs generalizing s with
  | nil => exact absurd rfl hne
  | cons b bs ih =>
    obtain ⟨hi, hb, hrest⟩ := payload_drop_eq_cons hbs
    have hi8 : s.idx.toNat < 8 := hi.trans_le hlen
    rw [← toNat_add_one_of_lt hi8 (by decide)] at hrest
    have left : bs.length = s.len.toNat - (s.idx + 1).toNat := by
      rw [← hrest, List.length_drop, payload_length _ hlen]
    rw [dataWrites, ← dataAddr_succ _ hi8]
    refine .cons (sendTransaction_data hi hb)
      (l1 := if (s.idx + 1).toNat < s.len.toNat then .s9 else .s10) (s1 := { s with idx := s.idx + 1 }) (fun _ => rfl) ?_
    cases bs with
    | nil =>
      have last : s.idx + 1 = s.len := by
        apply BitVec.eq_of_toNat_eq
        rw [toNat_add_one_of_lt hi8 (by decide)] at left ⊢
        rw [List.length_nil] at left
        omega
      rw [last, if_neg (Nat.lt_irrefl _)]
      exact .nil _ _
    | cons b' bs =>
      rw [List.length_cons] at left
      rw [if_pos (by omega)]
      exact ih (s := { s with idx := s.idx + 1 }) hlen (List.cons_ne_nil _ _) hrest

/-! ### The stages of SEND -/

/-- The latches, `CNT` and `RDATA` of the block after a SEND is accepted from the port and its first poll answers `d`. -/
def sendPolled (p : CmdPort) (ps : List CmdPort) (d : Byte) (s : State) : State :=
  { acceptSend p.id p.len p.data { s with port := ps } with cnt := 1, rdata := d }

/-- The trace of SEND up to its first poll, newest event first, on a block with the trace `tr`. -/
def polledTrace (p : CmdPort) (d : Byte) (tr : List Event) : List Event :=
  frameEvents (.rd Config.cfg.aTxctrl) d ++ .cmd (.send p.id (payload p.len p.data)) :: tr

/-- From the command to S4 with the first poll free: acceptance, S0, the read, the test (42_send.md R110, R111). -/
theorem served_send_polled {s : State} {p : CmdPort} {ps : List CmdPort} {d : Byte} (x y : Byte) (hop : p.op = 0b01)
    (hlen : p.len.toNat ≤ 8) (hph : s.phase = .normal) (hp : s.pc = .idle) (hx : s.xport = .idle) (hq : s.port = p :: ps)
    (hb : busy Config.cfg d = false) :
    Served 10 [x, y, d] s (sendAt .s4 (polledTrace p d s.trace) (sendPolled p ps d s)) := by
  have hd : decode (.command p) = .ok (.send p.id p.len p.data) :=
    decodeCommand_eq_ok_iff.mpr (.inr (.inl ⟨hop, rfl⟩))
  have accepted : Served 1 [] s (acceptSend p.id p.len p.data { s with port := ps }) := served_of_step fun ms rest =>
    (step_command (s := { s with moves := .run :: ms, chip := rest }) rfl hx hp hq hd).trans
      (exec_send_idle _ _ hlen hx hp hph)
  have cleared := accepted.trans (served_send_step (l := .s0)
    (u := { acceptSend p.id p.len p.data { s with port := ps } with pc := .send .s1, cnt := 0 }) hx rfl fun _ _ => rfl)
  have tested := (cleared.trans (served_send_read x y d hx rfl)).trans (served_send_test _ _)
  rw [if_neg (by rw [hb]; decide)] at tested
  exact tested

/-- S4 to S8 as a served run: the header, and `IDX` is cleared. -/
theorem served_send_header {s : State} {bs : List Byte} (tr : List Event) (hbs : bs.length = 15) :
    Served 35 bs (sendAt .s4 tr s)
      (sendAt .s9 (writeFrames (headerWrites Config.cfg s.id s.len) ++ tr) { s with idx := 0 }) :=
  served_send_writes (sendWrites_header s) tr hbs

/-- S9 writes the whole payload, or takes its one step with no byte to write (42_send.md R116). -/
theorem served_send_data {s : State} {bs : List Byte} (tr : List Event) (hlen : s.len.toNat ≤ 8)
    (hbs : bs.length = 3 * s.len.toNat) :
    Served (7 * s.len.toNat + if s.len.toNat = 0 then 1 else 0) bs (sendAt .s9 tr { s with idx := 0 })
      (sendAt .s10 (dataFrames Config.cfg.aTxd0 (payload s.len s.txbuf) ++ tr) { s with idx := s.len }) := by
  have length := payload_length s.txbuf hlen
  by_cases empty : s.len.toNat = 0
  · rw [empty] at length hbs ⊢
    rw [List.length_eq_zero_iff.mp length, List.length_eq_zero_iff.mp hbs,
      show s.len = 0 from BitVec.eq_of_toNat_eq empty]
    exact served_send_step rfl rfl fun _ _ => sendStep_data_done le_rfl
  · have some_byte : payload s.len s.txbuf ≠ [] := fun h => empty (by rw [← length, h]; rfl)
    have writes := sendWrites_data (s := { s with idx := 0 }) hlen some_byte rfl
    have served := served_send_writes writes (bs := bs) tr (by rw [dataWrites_length, length, hbs])
    rw [dataWrites_length, length, writeFrames_dataWrites, dataAddr_zero] at served
    rw [if_neg empty]
    exact served

/-- S10 and S11: the start write and the completion (42_send.md R117, R118). -/
theorem served_send_start {s : State} {bs : List Byte} (tr : List Event) (hbs : bs.length = 3) :
    Served 8 bs (sendAt .s10 tr s)
      (complete .ok (sendAt .s11 (frameEvents (.wr Config.cfg.aTxctrl Config.cfg.txreq) 0 ++ tr) s)) := by
  have written := served_send_writes (sendWrites_start s) (bs := bs) tr hbs
  rw [← List.append_nil bs]
  exact written.trans (served_send_step (l := .s11) rfl rfl fun _ _ => rfl)

/-! ### The whole run -/

/-- The trace of R118 is the traces of the stages, newest first. -/
theorem sendTrace_stages (p : CmdPort) (d : Byte) (tr : List Event) :
    .rsp .ok :: (frameEvents (.wr Config.cfg.aTxctrl Config.cfg.txreq) 0 ++
      (dataFrames Config.cfg.aTxd0 (payload p.len p.data) ++
        (writeFrames (headerWrites Config.cfg p.id p.len) ++ polledTrace p d tr))) =
      sendTrace Config.cfg p.id p.len (payload p.len p.data) d ++
        .cmd (.send p.id (payload p.len p.data)) :: tr := by
  simp [sendTrace, headerWrites, writeFrames, polledTrace]

/-- The steps of the stages are those of R118. -/
theorem sendSteps_stages (n : Nat) : 10 + 35 + (7 * n + if n = 0 then 1 else 0) + 8 = sendSteps n := by
  unfold sendSteps
  omega

/-- Settles O33: up to the free poll, the header, the payload, the start. -/
theorem sendRun : Obligations.SendRun := by
  intro p bs s ps ms rest hop hlen hph hp hx hq hbs hb hm hc
  have cut : bs.length = 3 + (15 + (3 * p.len.toNat + 3)) := by omega
  obtain ⟨poll, _, rfl, hpoll, cut⟩ := exists_append_of_length cut
  obtain ⟨header, _, rfl, hheader, cut⟩ := exists_append_of_length cut
  obtain ⟨data, start, rfl, hdata, hstart⟩ := exists_append_of_length cut
  obtain ⟨x, y, d, rfl⟩ := List.length_eq_three.mp hpoll
  have loaded := (served_send_polled x y hop hlen hph hp hx hq hb).trans (served_send_header _ hheader)
  have filled := loaded.trans (served_send_data (s := sendPolled p ps d s) _ hlen hdata)
  have completed := filled.trans (served_send_start _ hstart)
  have latched : payload (sendPolled p ps d s).len (sendPolled p ps d s).txbuf = payload p.len p.data :=
    payload_bufLatch p.len p.data s.txbuf
  rw [latched, sendSteps_stages, List.append_assoc, List.append_assoc] at completed
  exact ⟨_, completed.run hm hc, rfl, rfl, rfl, hph, rfl, rfl, rfl, rfl, sendTrace_stages p d s.trace⟩

end Sys2Proof.Machine
end

section
/-!
PROOF. The one fault of a step within the bounds of the counters (spec 43_recv_interrupt.md R140, 10_state.md R28): the
index faults of SEND and RECV are excluded, the length fault of RECV is left.
-/

namespace Sys2Proof.Machine

/-- The bounds of RECV's data loop: a checked length, and an index below it while a byte is transferred. -/
theorem CountersBounded.data_loop {s : State} (h : CountersBounded s) (hp : s.pc = .recv .v7) :
    s.rxlen.toNat ≤ 8 ∧ (s.xport ≠ .idle → s.idx.toNat < s.rxlen.toNat) := by
  unfold CountersBounded at h
  rw [hp] at h
  obtain ⟨hn, -, hi⟩ := h
  exact ⟨hn, hi⟩

/-- Within the bounds an operation faults only with RECV's length fault: INIT and IRQ never fault, the index of SEND is
below a length of at most 8 where it is used, and so is the index of RECV, at V7 and on the return to it. -/
theorem exec_fault_of_bounded {i : Instr} {s : State} {f : Fault} (hb : CountersBounded s) (h : exec i s = .fault f) :
    f = .recvLengthOutOfRange ∧ s.pc = .recv .v6 ∧ 8 < s.rxlen.toNat := by
  rcases exec_cases i s with ⟨t, -, he⟩ | ⟨r, -, he⟩ | ⟨a, n, d, -, he⟩ | ⟨a, -, he⟩ | ⟨-, he⟩ <;> rw [he] at h
  · obtain ⟨hx, hf⟩ := transact_fault h
    obtain ⟨hp, h8, -⟩ := finishFrame_fault hf
    obtain ⟨hn, hi⟩ := hb.data_loop hp
    have below : s.idx.toNat < s.rxlen.toNat := hi (by simp [hx])
    omega
  · exact absurd h runInit_no_fault
  · obtain ⟨l, hp, -, hl⟩ := runSend_fault h
    obtain ⟨-, hi, h8, -⟩ := sendStep_fault hl
    have hlen : s.len.toNat ≤ 8 := hb.len_le hp
    omega
  · obtain ⟨l, hp, -, hl⟩ := runRecv_fault h
    rcases recvStep_fault hl with ⟨rfl, hn, rfl⟩ | ⟨rfl, hi, h8, -⟩
    · exact ⟨rfl, hp, hn⟩
    · obtain ⟨hn, -⟩ := hb.data_loop hp
      omega
  · cases h

/-- Settles O60: a step faults in the operation it fetches, and neither the mover nor the port is part of the bounds. -/
theorem onlyTheLengthFault : Obligations.OnlyTheLengthFault := by
  intro s f hb h
  obtain ⟨s1, i, s2, hm, hf, he⟩ := step_fault h
  obtain ⟨ms, d, rfl⟩ := takeMove_frame hm
  obtain ⟨q, rfl⟩ := fetch_frame hf
  exact exec_fault_of_bounded (s := { s with moves := ms, port := q, draws := d })
    (hb.congr rfl Iff.rfl rfl rfl rfl rfl) he

end Sys2Proof.Machine
end

section
/-!
PROOF. RECV one micro-step at a time (spec 43_recv_interrupt.md R125 to R136): the acceptance, the step at each label, and
the return from each transaction.
-/

namespace Sys2Proof.Machine

/-! ### What RECV and its transactions answer -/

/-- On an idle block in Normal, RECV is accepted. -/
theorem exec_recv_idle {s : State} (i : BitVec 11) (hx : s.xport = .idle) (hp : s.pc = .idle) (hph : s.phase = .normal) :
    exec (.recv i) s = .next (acceptRecv i s) := by
  simp [exec, execRecv, runRecv, hp, whenTransportIdle_idle _ hx, admitRecv, hph]

/-- While RECV is in progress and no frame is open, RECV takes its micro-step. -/
theorem exec_recv_step {s : State} (l : RecvLabel) (i : BitVec 11) (hx : s.xport = .idle) (hp : s.pc = .recv l) :
    exec (.recv i) s = recvStep Config.cfg l s := by
  simp [exec, execRecv, runRecv, hp, whenTransportIdle_idle _ hx]

/-- RECV opens the frame of the label's transaction (43_recv_interrupt.md R136). -/
theorem exec_recv_opens {s : State} {t : Transaction} (l : RecvLabel) (i : BitVec 11) (hx : s.xport = .idle)
    (hp : s.pc = .recv l) (ht : recvTransaction Config.cfg l s = some t) : exec (.recv i) s = .next (opened t s) :=
  (exec_recv_step l i hx hp).trans (recvStep_opens ht)

/-- A transaction whose frame is closed and did not fail returns to RECV. -/
theorem exec_return_recv (t : Transaction) (l : RecvLabel) (s : State) :
    exec t.instr { s with pc := .recv l, xport := .closed t, errf := false } =
      recvReturn l { s with pc := .recv l, xport := .idle, errf := false } := by
  rw [exec_instr, transact_closed rfl]
  rfl

/-- V0 clears `RXPEND` where it is set (43_recv_interrupt.md R127). -/
theorem recvStep_pending {c : Cfg} {s : State} (h : s.rxpend = true) :
    recvStep c .v0 s = .next (goto (.recv .v1) { s with rxpend := false }) := by
  simp [recvStep, h]

/-- V0 answers NO_DATA where `RXPEND` is 0 (43_recv_interrupt.md R126). -/
theorem recvStep_noData {c : Cfg} {s : State} (h : s.rxpend = false) :
    recvStep c .v0 s = .next (complete .noData s) := by
  simp [recvStep, h]

/-- V4 goes by the "receive buffer 0 full" bit of the byte read (43_recv_interrupt.md R129). -/
theorem recvStep_test (c : Cfg) (s : State) :
    recvStep c .v4 s = .next (goto (.recv (if rxFull s.rdata then .v5 else .v3)) s) := by
  cases h : rxFull s.rdata <;> simp [recvStep, h]

/-- V6 goes on with a length byte of at most 8 (43_recv_interrupt.md R140). -/
theorem recvStep_length {c : Cfg} {s : State} (h : s.rxlen.toNat ≤ 8) :
    recvStep c .v6 s = .next (goto (.recv .v7) s) := by
  simp [recvStep, Config.maxLen, h]

/-- V6 stops with a length byte above 8 (43_recv_interrupt.md R140). -/
theorem recvStep_length_fault {c : Cfg} {s : State} (h : 8 < s.rxlen.toNat) :
    recvStep c .v6 s = .fault .recvLengthOutOfRange := by
  simp [recvStep, Config.maxLen, Nat.not_le.mpr h]

/-- V7 has the read of byte `IDX` as its transaction while there is one to read (43_recv_interrupt.md R131). -/
theorem recvTransaction_data {c : Cfg} {s : State} (hi : s.idx.toNat < s.rxlen.toNat) (h8 : s.idx.toNat < 8) :
    recvTransaction c .v7 s = some (.rd (dataAddr c.aRxd0 s.idx)) := by
  simp [recvTransaction, hi, h8]

/-- With no byte to read V7 goes on to V8. -/
theorem recvStep_data_done {c : Cfg} {s : State} (h : s.rxlen.toNat ≤ s.idx.toNat) :
    recvStep c .v7 s = .next (goto (.recv .v8) s) := by
  simp [recvStep, Nat.not_lt.mpr h]

/-- The return to V7 stores the byte read and tests for the next (43_recv_interrupt.md R131). -/
theorem recvReturn_data {s : State} {b : Buf} (h : bufSet s.rxbuf s.idx.toNat s.rdata = some b) :
    recvReturn .v7 s =
      .next (goto (.recv (if (s.idx + 1).toNat < s.rxlen.toNat then .v7 else .v8))
        { s with rxbuf := b, idx := s.idx + 1 }) := by
  simp [recvReturn, h]

/-! ### The labels -/

/-- Settles O34: the acceptance of RECV. -/
theorem recvAccepted : Obligations.RecvAccepted := fun i _ => exec_recv_idle i rfl rfl rfl

/-- Settles O35: V0 by its two tests. -/
theorem recvTestsAndClears : Obligations.RecvTestsAndClears := fun i _ =>
  ⟨(exec_recv_step .v0 i rfl rfl).trans (recvStep_noData rfl),
    (exec_recv_step .v0 i rfl rfl).trans (recvStep_pending rfl)⟩

/-- Settles O36: the frames of V1 and V2, the identifier in its two parts, and of V3, their returns, and V4 by the bit
read. -/
theorem recvRearmsAndPolls : Obligations.RecvRearmsAndPolls := by
  refine fun i a v s => ⟨?high, exec_return_recv (.wr a v) .v1 s, ?low, exec_return_recv (.wr a v) .v2 s,
    exec_recv_opens .v3 i rfl rfl rfl, exec_return_recv (.rd a) .v3 s, ?test⟩
  case high =>
    rw [← sidh_eq_extract]
    exact exec_recv_opens .v1 i rfl rfl rfl
  case low =>
    rw [← sidl_eq_extract_append]
    exact exec_recv_opens .v2 i rfl rfl rfl
  case test =>
    rw [exec_recv_step .v4 i rfl rfl, recvStep_test]
    simp [rxFull, Config.rx0if, goto]

/-- Settles O37: the frame of V5 and its return, then the two tests of V6. -/
theorem recvReadsAndChecksLength : Obligations.RecvReadsAndChecksLength :=
  ⟨fun i a s => ⟨exec_recv_opens .v5 i rfl rfl rfl, exec_return_recv (.rd a) .v5 s⟩, fun i _ =>
    ⟨fun h => (exec_recv_step .v6 i rfl rfl).trans (recvStep_length h),
      fun h => (exec_recv_step .v6 i rfl rfl).trans (recvStep_length_fault h)⟩⟩

/-- Settles O38: the frame of a byte, no byte left, and the return, where `IDX` does not wrap. -/
theorem recvReadsData : Obligations.RecvReadsData := by
  refine ⟨fun i s hi h8 => ?_, fun i s h => (exec_recv_step .v7 i rfl rfl).trans (recvStep_data_done h),
    fun a s h8 => ?_⟩
  · exact exec_recv_opens .v7 i rfl rfl (recvTransaction_data (s := { s with pc := .recv .v7, xport := .idle }) hi h8)
  · obtain ⟨b, hset, hget⟩ := bufSet_spec (b := s.rxbuf) s.rdata h8
    refine ⟨b, ?_, hget⟩
    rw [← toNat_add_one_of_lt h8 (by decide)]
    exact (exec_return_recv (.rd a) .v7 s).trans (recvReturn_data hset)

/-- W7: the receive identifier defaults are the last values `INIT_SETUP` writes there (00_scope.md R10). -/
theorem cfg_restores_setup :
    lastWrite Config.cfg.aRxsidh Config.cfg.openF.initSetup = some Config.cfg.openF.rxSidhDef ∧
      lastWrite Config.cfg.aRxsidl Config.cfg.openF.initSetup = some Config.cfg.openF.rxSidlDef := by
  obtain ⟨-, -, -, -, w7, -⟩ := Config.wf_parts Config.cfg_wf
  simpa [Cfg.w7] using w7

/-- Settles O39: the frames of V8 to V11, then their returns; the restored values by W7. -/
theorem recvClearsAndRestores : Obligations.RecvClearsAndRestores :=
  ⟨fun i _ => ⟨exec_recv_opens .v8 i rfl rfl rfl, exec_recv_opens .v9 i rfl rfl rfl, exec_recv_opens .v10 i rfl rfl rfl,
      exec_recv_opens .v11 i rfl rfl rfl⟩,
    fun a v s => ⟨exec_return_recv (.wr a v) .v8 s, exec_return_recv (.wr a v) .v9 s, exec_return_recv (.wr a v) .v10 s,
      exec_return_recv (.wr a v) .v11 s⟩,
    cfg_restores_setup⟩

/-- Settles O40: the completion at V12. -/
theorem recvReturnsTheFrame : Obligations.RecvReturnsTheFrame := fun i _ =>
  (exec_recv_step .v12 i rfl rfl).trans rfl

end Sys2Proof.Machine
end

section
/-!
PROOF. RECV on a bus that does not fail, with no pin sample between the steps: what a micro-step and a frame are as served
runs (spec 43_recv_interrupt.md R136), RECV with `RXPEND` = 0 (95_test_vectors.md E5), and the flag loop (R129, R164).
-/

namespace Sys2Proof.Machine

/-! ### Micro-steps and frames -/

/-- RECV at label `l` with the transport at rest, between two micro-steps, with the trace `tr` so far. -/
def recvAt (l : RecvLabel) (tr : List Event) (s : State) : State :=
  { s with csN := .high, pc := .recv l, xport := .idle, errf := false, trace := tr }

/-- A micro-step of RECV without a transaction. -/
theorem served_recv_step {s u : State} {l : RecvLabel} (hx : s.xport = .idle) (hp : s.pc = .recv l)
    (h : ∀ ms rest,
      recvStep Config.cfg l { s with moves := ms, chip := rest } = .next { u with moves := ms, chip := rest }) :
    Served 1 [] s u :=
  served_of_step fun ms rest =>
    (step_recv (s := { s with moves := .run :: ms, chip := rest }) rfl hx hp).trans (h ms rest)

/-- The return to RECV does not touch what the environment holds. -/
theorem recvReturn_environment {l : RecvLabel} {s u : State} (ms : List Move) (rest : List Reply)
    (h : recvReturn l s = .next u) :
    recvReturn l { s with moves := ms, chip := rest } = .next { u with moves := ms, chip := rest } := by
  cases l
  case v7 =>
    cases hb : bufSet s.rxbuf s.idx.toNat s.rdata <;> simp only [recvReturn, hb] at h <;> cases h
    exact recvReturn_data (s := { s with moves := ms, chip := rest }) hb
  all_goals
    cases h
    rfl

/-- A micro-step of RECV that is a transaction: the whole frame and the return to RECV. -/
theorem served_recv_frame {s u : State} {l : RecvLabel} {t : Transaction} {bs : List Byte} (hx : s.xport = .idle)
    (hp : s.pc = .recv l) (ht : recvTransaction Config.cfg l s = some t) (hlen : bs.length = t.slots)
    (hret : recvReturn l (recvAt l (frameEvents t (bs.getLastD 0) ++ s.trace)
      { s with rdata := rdataAfter t (bs.getLastD 0) s.rdata }) = .next u) :
    Served (t.slots + 4) bs s u := by
  intro ms rest
  have hcur : currentTransaction Config.cfg s = some t := by simpa [currentTransaction, hp] using ht
  obtain ⟨hrun, -, -⟩ := transactionsRunToTheirEnd
  rw [hrun t bs { s with moves := List.replicate (t.slots + 4) .run ++ ms, chip := bs.map Reply.ok ++ rest } ms rest
    hcur hlen hx rfl rfl]
  refine Eq.trans ?_ (recvReturn_environment ms rest hret)
  simp only [resume, hp, reduceCtorEq, if_false]
  rfl

/-- A read of RECV as a served run. -/
theorem served_recv_read {s u : State} {l : RecvLabel} {a : Addr} (x y d : Byte) (hx : s.xport = .idle)
    (hp : s.pc = .recv l) (ht : recvTransaction Config.cfg l s = some (.rd a))
    (hret : recvReturn l (recvAt l (frameEvents (.rd a) d ++ s.trace) { s with rdata := d }) = .next u) :
    Served 7 [x, y, d] s u :=
  served_recv_frame (t := .rd a) (bs := [x, y, d]) hx hp ht rfl hret

/-! ### No frame is pending -/

/-- RECV is accepted from the port (43_recv_interrupt.md R125). -/
theorem served_recv_accepted {s : State} {p : CmdPort} {ps : List CmdPort} (hop : p.op = 0b10) (hph : s.phase = .normal)
    (hp : s.pc = .idle) (hx : s.xport = .idle) (hq : s.port = p :: ps) :
    Served 1 [] s (acceptRecv p.id { s with port := ps }) := by
  have hd : decode (.command p) = .ok (.recv p.id) := decodeCommand_eq_ok_iff.mpr (.inr (.inr ⟨hop, rfl⟩))
  exact served_of_step fun ms rest =>
    (step_command (s := { s with moves := .run :: ms, chip := rest }) rfl hx hp hq hd).trans
      (exec_recv_idle _ hx hp hph)

/-- V0 answers NO_DATA where `RXPEND` is 0 (43_recv_interrupt.md R126). -/
theorem served_recv_noData {s : State} (hx : s.xport = .idle) (hp : s.pc = .recv .v0) (h : s.rxpend = false) :
    Served 1 [] s (complete .noData s) :=
  served_recv_step hx hp fun ms rest => recvStep_noData (s := { s with moves := ms, chip := rest }) h

/-- Settles O41: the acceptance and V0, which answers NO_DATA. -/
theorem recvFastPathRun : Obligations.RecvFastPathRun := by
  intro p s ps ms hop hph hp hx hpend hq hm
  have answered := (served_recv_accepted hop hph hp hx hq).trans (served_recv_noData hx rfl hpend)
  refine (answered.run (rest := s.chip) hm rfl).trans ?_
  rw [hp]
  rfl

/-! ### The flag loop -/

/-- V3 and V4: the flag register is read, and RECV goes by the bit read (43_recv_interrupt.md R129). -/
theorem served_recv_flag {s : State} (x y f : Byte) (hx : s.xport = .idle) (hp : s.pc = .recv .v3) :
    Served 8 [x, y, f] s
      (recvAt (if rxFull f then .v5 else .v3) (frameEvents (.rd Config.cfg.aIntf) f ++ s.trace)
        { s with rdata := f }) :=
  (served_recv_read x y f hx hp rfl rfl).trans (served_recv_step (l := .v4) rfl rfl fun _ _ => recvStep_test _ _)

/-- Flag reads that find no frame, as a served run: RECV is at V3 again, eight steps each. -/
theorem served_flag_loop {s : State} {bs : List (Byte × Byte × Byte)} (hb : ∀ b ∈ bs, rxFull b.2.2 = false)
    (hp : s.pc = .recv .v3) (hx : s.xport = .idle) :
    ∃ u, Served (8 * bs.length) (bs.flatMap pollAnswers) s u ∧ u.pc = .recv .v3 ∧ u.xport = .idle ∧
      u.trace = (bs.flatMap fun b => (frameEvents (.rd Config.cfg.aIntf) b.2.2).reverse).reverse ++ s.trace := by
  induction bs generalizing s with
  | nil => exact ⟨s, fun ms rest => rfl, hp, hx, rfl⟩
  | cons b bs ih =>
    rw [List.forall_mem_cons] at hb
    obtain ⟨empty, hb⟩ := hb
    have round := served_recv_flag b.1 b.2.1 b.2.2 hx hp
    rw [if_neg (by simp [empty])] at round
    obtain ⟨u, rounds, hpu, hxu, htr⟩ := ih hb (s := recvAt .v3 _ _) rfl rfl
    refine ⟨u, ?_, hpu, hxu, ?_⟩
    · rw [List.length_cons, Nat.mul_succ, Nat.add_comm]
      exact round.trans rounds
    · simp [htr, recvAt]

/-- Settles O42: the flag loop, from its start. -/
theorem recvLoopIsUnbounded : Obligations.RecvLoopIsUnbounded := by
  rintro n bs s ms rest rfl hb hp hx hm hc
  have empty : ∀ b ∈ bs, rxFull b.2.2 = false := fun b h => by simpa [rxFull, Config.rx0if] using hb b h
  obtain ⟨u, served, hpu, hxu, htr⟩ := served_flag_loop empty hp hx
  have answers : s.chip = (bs.flatMap pollAnswers).map Reply.ok ++ rest := by rw [hc, List.map_flatMap]; rfl
  exact ⟨_, served.run hm answers, hpu, hxu, rfl, rfl, htr⟩

end Sys2Proof.Machine
end

section
/-!
PROOF. RECV as a whole run with a frame pending (spec 43_recv_interrupt.md R136, 95_test_vectors.md E6): the stages of RECV,
the data reads by induction on the bytes left, and the composition of the stages.
-/

namespace Sys2Proof.Machine

/-! ### From the command to the length byte -/

/-- One write of RECV as a served run. -/
theorem served_recv_write {s : State} {l : RecvLabel} (l' : RecvLabel) {a : Addr} {v : Byte} {bs : List Byte}
    (hx : s.xport = .idle) (hp : s.pc = .recv l) (ht : recvTransaction Config.cfg l s = some (.wr a v))
    (hret : ∀ u, recvReturn l u = .next (goto (.recv l') u)) (hlen : bs.length = 3) :
    Served 7 bs s (recvAt l' (frameEvents (.wr a v) 0 ++ s.trace) s) := by
  refine served_recv_frame (t := .wr a v) hx hp ht hlen ?_
  rw [hret, frameEvents_wr]
  rfl

/-- V0 clears `RXPEND` where it is set (43_recv_interrupt.md R127). -/
theorem served_recv_pending {s : State} (hx : s.xport = .idle) (hp : s.pc = .recv .v0) (h : s.rxpend = true) :
    Served 1 [] s (goto (.recv .v1) { s with rxpend := false }) :=
  served_recv_step hx hp fun ms rest => recvStep_pending (s := { s with moves := ms, chip := rest }) h

/-- The trace of RECV up to V3, newest event first, on a block with the trace `tr`: the identifier is re-armed. -/
def armedTrace (c : Cfg) (i : BitVec 11) (tr : List Event) : List Event :=
  frameEvents (.wr c.aRxsidl (sidl i)) 0 ++ (frameEvents (.wr c.aRxsidh (sidh i)) 0 ++ .cmd (.recv i) :: tr)

/-- From the command to V3: acceptance, V0, the writes of V1 and V2 (43_recv_interrupt.md R125 to R128). -/
theorem served_recv_armed {s : State} {p : CmdPort} {ps : List CmdPort} {bs : List Byte} (hop : p.op = 0b10)
    (hph : s.phase = .normal) (hp : s.pc = .idle) (hx : s.xport = .idle) (hpend : s.rxpend = true)
    (hq : s.port = p :: ps) (hlen : bs.length = 3 + 3) :
    Served 16 bs s
      (recvAt .v3 (armedTrace Config.cfg p.id s.trace) { s with port := ps, id := p.id, rxpend := false }) := by
  obtain ⟨high, low, rfl, hhigh, hlow⟩ := exists_append_of_length hlen
  have pending := (served_recv_accepted hop hph hp hx hq).trans (served_recv_pending hx rfl hpend)
  have armed := pending.trans (served_recv_write .v2 hx rfl rfl (fun _ => rfl) hhigh)
  exact armed.trans (served_recv_write .v3 rfl rfl rfl (fun _ => rfl) hlow)

/-- V5 and V6 with a length byte of at most 8 (43_recv_interrupt.md R130, R140). -/
theorem served_recv_length {s : State} {n : Byte} (x y : Byte) (tr : List Event) (hn : n.toNat ≤ 8) :
    Served 8 [x, y, n] (recvAt .v5 tr s)
      (recvAt .v7 (frameEvents (.rd Config.cfg.aRxdlc) n ++ tr) { s with rdata := n, rxlen := n, idx := 0 }) :=
  (served_recv_read (s := recvAt .v5 tr s) x y n rfl rfl rfl rfl).trans
    (served_recv_step rfl rfl fun _ _ => recvStep_length hn)

/-! ### The data -/

/-- Storing byte `i` of a buffer puts it after the bytes below `i`. -/
theorem bufList_take_bufSet {b b' : Buf} {i : Nat} {v : Byte} (h : bufSet b i v = some b') :
    (bufList b').take (i + 1) = (bufList b).take i ++ [v] := by
  rcases i with _ | _ | _ | _ | _ | _ | _ | _ | i <;> cases h <;> rfl

/-- `u` is `s` after data reads, with `bytes` in `RXBUF` below `RXLEN` (43_recv_interrupt.md R131). -/
def Filled (bytes : List Byte) (s u : State) : Prop :=
  ∃ d i b, u = { s with rdata := d, idx := i, rxbuf := b } ∧ (bufList b).take s.rxlen.toNat = bytes

/-- One read of V7: the byte `d` is stored, and RECV stays at V7 while a byte is left (43_recv_interrupt.md R131). -/
theorem served_recv_byte {s : State} {d : Byte} {b : Buf} (x y : Byte) (tr : List Event)
    (hi : s.idx.toNat < s.rxlen.toNat) (h8 : s.idx.toNat < 8) (hb : bufSet s.rxbuf s.idx.toNat d = some b) :
    Served 7 [x, y, d] (recvAt .v7 tr s)
      (recvAt (if (s.idx + 1).toNat < s.rxlen.toNat then .v7 else .v8)
        (frameEvents (.rd (dataAddr Config.cfg.aRxd0 s.idx)) d ++ tr)
        { s with rdata := d, rxbuf := b, idx := s.idx + 1 }) :=
  served_recv_read (s := recvAt .v7 tr s) x y d rfl rfl (recvTransaction_data (s := recvAt .v7 tr s) hi h8)
    (recvReturn_data (s := recvAt .v7 _ { s with rdata := d }) hb)

/-- While bytes are left, V7 reads them in ascending order, stores them after those below `IDX`, and goes on to V8
(43_recv_interrupt.md R131). -/
theorem served_recv_bytes {s : State} {bs : List (Byte × Byte × Byte)} (tr : List Event) (hn : s.rxlen.toNat ≤ 8)
    (hne : bs ≠ []) (hlen : s.idx.toNat + bs.length = s.rxlen.toNat) :
    ∃ u, Filled ((bufList s.rxbuf).take s.idx.toNat ++ bs.map fun b => b.2.2) s u ∧
      Served (7 * bs.length) (bs.flatMap pollAnswers) (recvAt .v7 tr s)
        (recvAt .v8 (dataReads (dataAddr Config.cfg.aRxd0 s.idx) (bs.map fun b => b.2.2) ++ tr) u) := by
  induction bs generalizing s tr with
  | nil => exact absurd rfl hne
  | cons b bs ih =>
    rw [List.length_cons] at hlen
    have h8 : s.idx.toNat < 8 := by omega
    have next : (s.idx + 1).toNat = s.idx.toNat + 1 := toNat_add_one_of_lt h8 (by decide)
    obtain ⟨buf, hset, -⟩ := bufSet_spec (b := s.rxbuf) b.2.2 h8
    have stored := bufList_take_bufSet hset
    have read := served_recv_byte b.1 b.2.1 tr (by omega) h8 hset
    rw [← next] at stored
    cases bs with
    | nil =>
      have last : (s.idx + 1).toNat = s.rxlen.toNat := by rw [next]; exact hlen
      rw [last] at stored read
      rw [if_neg (Nat.lt_irrefl _)] at read
      exact ⟨_, ⟨_, _, _, rfl, stored⟩, read⟩
    | cons b' bs =>
      rw [List.length_cons] at hlen
      rw [if_pos (by omega)] at read
      have left : (s.idx + 1).toNat + (b' :: bs).length = s.rxlen.toNat := by
        rw [next, List.length_cons]
        omega
      obtain ⟨u, ⟨d, i, buf', rfl, hbytes⟩, reads⟩ :=
        ih (s := { s with rdata := b.2.2, rxbuf := buf, idx := s.idx + 1 }) _ hn (List.cons_ne_nil _ _) left
      refine ⟨_, ⟨d, i, buf', rfl, ?_⟩, ?_⟩
      · rw [hbytes, stored, List.append_assoc]
        rfl
      · rw [List.length_cons, Nat.mul_succ, Nat.add_comm, List.map_cons, dataReads, ← dataAddr_succ _ h8,
          List.append_assoc]
        exact read.trans reads

/-- V7 reads the whole payload, or takes its one step with no byte to read (43_recv_interrupt.md R131). -/
theorem served_recv_data {s : State} {bs : List (Byte × Byte × Byte)} (tr : List Event) (hn : s.rxlen.toNat ≤ 8)
    (hidx : s.idx = 0) (hlen : bs.length = s.rxlen.toNat) :
    ∃ u, Filled (bs.map fun b => b.2.2) s u ∧
      Served (7 * s.rxlen.toNat + if s.rxlen.toNat = 0 then 1 else 0) (bs.flatMap pollAnswers) (recvAt .v7 tr s)
        (recvAt .v8 (dataReads Config.cfg.aRxd0 (bs.map fun b => b.2.2) ++ tr) u) := by
  rw [← hlen]
  cases bs with
  | nil =>
    rw [List.length_nil] at hlen
    refine ⟨s, ⟨_, _, _, rfl, by rw [← hlen]; rfl⟩, served_recv_step rfl rfl fun _ _ => recvStep_data_done ?_⟩
    exact hlen.symm.trans_le (Nat.zero_le _)
  | cons b bs =>
    have reads := served_recv_bytes tr hn (List.cons_ne_nil b bs) (by rw [hidx, ← hlen]; exact Nat.zero_add _)
    rw [hidx, dataAddr_zero] at reads
    exact reads

/-! ### From the last byte to the response -/

/-- The trace of V8 to V11, newest event first, on a block with the trace `tr`: clear, re-enable, restore. -/
def restoredTrace (c : Cfg) (tr : List Event) : List Event :=
  frameEvents (.wr c.aRxsidl c.openF.rxSidlDef) 0 ++ (frameEvents (.wr c.aRxsidh c.openF.rxSidhDef) 0 ++
    (frameEvents (.wr c.aInte Config.rx0ieVal) 0 ++ (frameEvents (.wr c.aIntf Config.intfClear) 0 ++ tr)))

/-- V8 to V11 make their writes (43_recv_interrupt.md R132 to R134). -/
theorem served_recv_restored {s : State} {bs : List Byte} (tr : List Event) (hlen : bs.length = 3 + (3 + (3 + 3))) :
    Served 28 bs (recvAt .v8 tr s) (recvAt .v12 (restoredTrace Config.cfg tr) s) := by
  obtain ⟨clear, _, rfl, hclear, hlen⟩ := exists_append_of_length hlen
  obtain ⟨enable, _, rfl, henable, hlen⟩ := exists_append_of_length hlen
  obtain ⟨high, low, rfl, hhigh, hlow⟩ := exists_append_of_length hlen
  have cleared := served_recv_write (s := recvAt .v8 tr s) .v9 rfl rfl rfl (fun _ => rfl) hclear
  have enabled := cleared.trans (served_recv_write .v10 rfl rfl rfl (fun _ => rfl) henable)
  have restored := (enabled.trans (served_recv_write .v11 rfl rfl rfl (fun _ => rfl) hhigh)).trans
    (served_recv_write .v12 rfl rfl rfl (fun _ => rfl) hlow)
  rw [List.append_assoc, List.append_assoc] at restored
  exact restored

/-- V12 completes with the frame read (43_recv_interrupt.md R135). -/
theorem served_recv_complete (tr : List Event) (s : State) :
    Served 1 [] (recvAt .v12 tr s) (complete (frameResponse s) (recvAt .v12 tr s)) :=
  served_recv_step (l := .v12) rfl rfl fun _ _ => rfl

/-! ### The whole run -/

/-- The answers of the bus before the data, cut where the stages of RECV use them up; the flag byte and the length byte
are the ones counted from the start. -/
theorem recv_answers_cut {hd : List Byte} {f n : Byte} (hlen : hd.length = 12) (hf : hd.getD 8 0 = f)
    (hn : hd.getD 11 0 = n) :
    ∃ w x y x' y', hd = w ++ ([x, y, f] ++ [x', y', n]) ∧ w.length = 6 := by
  obtain ⟨w, _, rfl, hw, hlen⟩ := exists_append_of_length (m := 6) (n := 3 + 3) hlen
  obtain ⟨flag, length, rfl, hflag, hlength⟩ := exists_append_of_length hlen
  obtain ⟨x, y, z, rfl⟩ := List.length_eq_three.mp hflag
  obtain ⟨x', y', z', rfl⟩ := List.length_eq_three.mp hlength
  rw [List.getD_append_right _ _ _ _ (by omega), hw] at hf hn
  obtain rfl : z = f := hf
  obtain rfl : z' = n := hn
  exact ⟨w, x, y, x', y', rfl, hw⟩

/-- The trace of R136 is the traces of the stages, newest first. -/
theorem recvTrace_stages (c : Cfg) (i : BitVec 11) (f n : Byte) (bs : List Byte) (tr : List Event) :
    .rsp (.frame i (n.setWidth 4) bs) :: restoredTrace c (dataReads c.aRxd0 bs ++ (frameEvents (.rd c.aRxdlc) n ++
      (frameEvents (.rd c.aIntf) f ++ armedTrace c i tr))) = recvTrace c i f n bs ++ .cmd (.recv i) :: tr := by
  simp [recvTrace, restoredTrace, armedTrace]

/-- The steps of the stages are those of R136. -/
theorem recvSteps_stages (n : Nat) : 16 + 8 + 8 + (7 * n + if n = 0 then 1 else 0) + 28 + 1 = recvSteps n := by
  unfold recvSteps
  omega

/-- Settles O43: up to the re-armed identifier, the flag, the length, the payload, the restored identifier and the
response. -/
theorem recvRun : Obligations.RecvRun := by
  intro p hd tl f n data s ps ms rest hop hph hp hx hpend hq hhd hf hn htl hfull hn8 hdata hm hc
  obtain ⟨w, x, y, x', y', rfl, hw⟩ := recv_answers_cut hhd hf hn
  have found := (served_recv_armed hop hph hp hx hpend hq hw).trans (served_recv_flag x y f rfl rfl)
  rw [if_pos hfull] at found
  have measured := found.trans (served_recv_length x' y' _ hn8)
  obtain ⟨u, ⟨d, i, b, rfl, hbytes⟩, filled⟩ := served_recv_data
    (s := { s with port := ps, id := p.id, rxpend := false, rdata := n, rxlen := n, idx := 0 })
    (frameEvents (.rd Config.cfg.aRxdlc) n ++ (frameEvents (.rd Config.cfg.aIntf) f ++
      armedTrace Config.cfg p.id s.trace)) hn8 rfl hdata
  have restored := (measured.trans filled).trans (served_recv_restored _ htl)
  have completed := restored.trans (served_recv_complete _ _)
  have answers : s.chip =
      (w ++ [x, y, f] ++ [x', y', n] ++ data.flatMap pollAnswers ++ tl).map Reply.ok ++ rest := by
    rw [hc]
    simp [List.map_flatMap, pollAnswers]
  rw [recvSteps_stages, List.append_nil] at completed
  refine ⟨_, completed.run hm answers, rfl, rfl, rfl, hph, rfl, rfl, rfl, rfl, rfl, ?_⟩
  rw [← recvTrace_stages, ← hbytes]
  rfl

end Sys2Proof.Machine
end

section
/-!
PROOF. Where `RXPEND` is cleared (spec 43_recv_interrupt.md R126, R127, 60_exceptions.md R153), and that a busy block
leaves the command port (60_exceptions.md R159).
-/

namespace Sys2Proof.Machine

/-! ### The pending flag -/

/-- Of the operations only RECV clears `RXPEND`, at V0 with no frame open: IRQ sets it, and every other operation leaves it
at the value it finds (`pendingFlagReadOnlyAtV0`). -/
theorem exec_clears_rxpend {i : Instr} {s u : State} (h : exec i s = .next u) (hs : s.rxpend = true)
    (hu : u.rxpend = false) : s.pc = .recv .v0 ∧ s.xport = .idle ∧ u.pc = .recv .v1 := by
  by_cases hirq : i = .irq
  · subst hirq
    cases h
    cases hu
  by_cases hv0 : (∃ a, i = .recv a) ∧ s.pc = .recv .v0
  · obtain ⟨⟨a, rfl⟩, hp⟩ := hv0
    obtain ⟨hx, ⟨hidle, -⟩ | ⟨l, hl, hstep⟩⟩ := runRecv_next h
    · cases hp.symm.trans hidle
    · cases hp.symm.trans hl
      rw [recvStep_pending hs] at hstep
      cases hstep
      exact ⟨hp, hx, rfl⟩
  · have pending : { s with rxpend := true } = s := by rw [← hs]
    have kept := pendingFlagReadOnlyAtV0 i s true hirq hv0
    rw [pending, h] at kept
    have uPending : u.rxpend = true := congrArg State.rxpend (Host.Outcome.next.inj kept)
    cases hu.symm.trans uPending

/-- Settles O46: fetching, waiting and a sample of the pin leave the flag; of the operations only V0 clears it. -/
theorem pendingFlagClearedOnlyAtV0 : Obligations.PendingFlagClearedOnlyAtV0 := by
  intro s u h hs hu
  have changed : u.rxpend ≠ s.rxpend := by simp [hs, hu]
  obtain ⟨m, s1, hm, hstep⟩ := step_next h
  obtain ⟨ms, d, rfl⟩ := takeMove_frame hm
  rcases hstep with ⟨-, i, s2, hf, he⟩ | ⟨-, -, rfl⟩ | ⟨-, -, rfl⟩ | ⟨l, -, -, rfl⟩ | ⟨rfl, -⟩
  · obtain ⟨q, rfl⟩ := fetch_frame hf
    exact .inl (exec_clears_rxpend (s := { s with moves := ms, draws := d, port := q }) he hs hu)
  · exact absurd rfl changed
  · cases hu
  · exact absurd rfl changed
  · exact .inr (by rw [hm])

/-! ### The command port -/

/-- A fetch of a busy block changes nothing: the port is read on an idle block only (60_exceptions.md R159). -/
theorem fetch_eq_self_of_busy {s s1 : State} {i : Instr} (h : fetch s = .run i s1) (hbusy : s.pc ≠ .idle) : s1 = s := by
  rcases fetch_run h with ⟨t, -, -, hs⟩ | ⟨t, -, -, hs⟩ | ⟨-, -, -, hs⟩ | ⟨-, -, -, hs⟩ | ⟨-, -, -, hs⟩ |
    ⟨p, ps, -, hidle, -⟩
  case inr.inr.inr.inr.inr => exact absurd hidle hbusy
  all_goals exact hs

/-- No operation touches the list of presented commands: the fetch has taken the command it runs. -/
theorem exec_port {i : Instr} {s u : State} (h : exec i s = .next u) : u.port = s.port := by
  rcases exec_next h with ⟨t, -, ht⟩ | ⟨r, -, -, -, rfl⟩ | ⟨r, l, -, -, -, hl⟩ | ⟨a, n, d, -, -, -, -, -, rfl⟩ |
    ⟨a, n, d, l, -, -, -, hl⟩ | ⟨a, -, -, -, -, rfl⟩ | ⟨a, l, -, -, -, hl⟩ | ⟨-, rfl⟩
  · obtain ⟨_, _, _, _, _, _, _, _, _, _, _, _, -, rfl⟩ := transact_frame ht
    rfl
  · rfl
  · obtain ⟨_, _, _, _, _, _, _, rfl⟩ := initStep_frame hl
    rfl
  · rfl
  · obtain ⟨_, _, _, _, _, _, rfl⟩ := sendStep_frame hl
    rfl
  · rfl
  · obtain ⟨_, _, _, _, _, _, rfl⟩ := recvStep_frame hl
    rfl
  · rfl

/-- Settles O48: a busy block fetches without the port, no operation touches it, and the environment's lists outlive a
reset of the block. -/
theorem portNotSampledWhileBusy : Obligations.PortNotSampledWhileBusy := by
  intro s u h hbusy
  obtain ⟨m, s1, hm, hstep⟩ := step_next h
  obtain ⟨ms, d, rfl⟩ := takeMove_frame hm
  rcases hstep with ⟨-, i, s2, hf, he⟩ | ⟨-, -, rfl⟩ | ⟨-, -, rfl⟩ | ⟨l, -, -, rfl⟩ | ⟨-, rfl⟩
  · cases fetch_eq_self_of_busy hf hbusy
    exact exec_port (s := { s with moves := ms, draws := d }) he
  · rfl
  · rfl
  · rfl
  · rfl

end Sys2Proof.Machine
end

section
/-!
PROOF. Which commands and transactions are refused (spec 30_encoding.md R74, 42_send.md R120, 60_exceptions.md R159, R165).
-/

namespace Sys2Proof.Machine

/-! ### A busy block -/

/-- INIT is refused while SEND or RECV is in progress. -/
theorem runInit_busy {c : Cfg} {r : RateName} {s : State} (ho : s.op = .send ∨ s.op = .recv) :
    runInit c r s = .refused .busy := by
  unfold runInit
  cases hp : s.pc
  case idle | init => simp [State.op, hp] at ho
  case send | recv => rfl

/-- SEND is refused while INIT or RECV is in progress. -/
theorem runSend_busy {c : Cfg} {i : BitVec 11} {n : BitVec 4} {d : Buf} {s : State} (ho : s.op = .init ∨ s.op = .recv) :
    runSend c i n d s = .refused .busy := by
  unfold runSend
  cases hp : s.pc
  case idle | send => simp [State.op, hp] at ho
  case init | recv => rfl

/-- RECV is refused while INIT or SEND is in progress. -/
theorem runRecv_busy {c : Cfg} {i : BitVec 11} {s : State} (ho : s.op = .init ∨ s.op = .send) :
    runRecv c i s = .refused .busy := by
  unfold runRecv
  cases hp : s.pc
  case idle | recv => simp [State.op, hp] at ho
  case init | send => rfl

/-! ### An idle block -/

/-- Outside Normal SEND is not admitted, whatever its length. -/
theorem admitSend_notNormal {s : State} (i : BitVec 11) (n : BitVec 4) (d : Buf) (hph : s.phase ≠ .normal) :
    admitSend i n d s = .refused .notNormal := by
  unfold admitSend
  cases h : s.phase
  case normal => exact absurd h hph
  case uninitialized | configuring => rfl

/-- In Normal SEND of more than eight bytes is not admitted (42_send.md R120). -/
theorem admitSend_lengthOver8 {s : State} {n : BitVec 4} (i : BitVec 11) (d : Buf) (hph : s.phase = .normal)
    (hn : 8 < n.toNat) : admitSend i n d s = .refused .lengthOver8 := by
  simp [admitSend, hph, Config.maxLen, Nat.not_le.mpr hn]

/-- Outside Normal RECV is not admitted. -/
theorem admitRecv_notNormal {s : State} (i : BitVec 11) (hph : s.phase ≠ .normal) :
    admitRecv i s = .refused .notNormal := by
  unfold admitRecv
  cases h : s.phase
  case normal => exact absurd h hph
  case uninitialized | configuring => rfl

/-- Settles O27: on an idle block admission refuses, on a busy one the operation in progress does, and a transaction is
refused outside its micro-step. -/
theorem refusedCommands : Obligations.RefusedCommands := by
  refine ⟨fun i n d s => ?_, fun i n d s => ?_, fun i s => ?_, fun _ _ => runInit_busy, fun _ _ _ _ => runSend_busy,
    fun _ _ => runRecv_busy, fun t s hx ht => ?_⟩
  · exact admitSend_notNormal (s := { s with pc := .idle, xport := .idle }) i n d
  · exact admitSend_lengthOver8 (s := { s with pc := .idle, xport := .idle, phase := .normal }) i d rfl
  · exact admitRecv_notNormal (s := { s with pc := .idle, xport := .idle }) i
  · rw [exec_instr, transact_outside hx ht]

end Sys2Proof.Machine
end
